-- ==== Sys2Proof/Word.lean ====
section
/-! DEFINITION. The machine's word, byte and register-index types (R7, R13). -/

namespace Sys2Proof

/-- A register, address or data-path value: 32 bits (R7). -/
abbrev Word := BitVec 32

/-- The smallest addressable unit of memory (R70, R72). -/
abbrev Byte := BitVec 8

/-- A 5-bit register index (R15, R111). -/
abbrev RegIdx := BitVec 5

end Sys2Proof
end

