-- ==== Sys2Proof/Syntax.lean ====
section
/-! DEFINITION. The instructions: one constructor for each of the 36 rows of spec/opcode_table.json (R3, R127).
An offset of a branch or of JAL is the byte offset itself, with its bit 0, which no encoding carries (R115, R117). -/

namespace Sys2Proof

inductive Instr where
  -- ALU_R: rd, rs1, rs2 (R203 to R212)
  | add (rd rs1 rs2 : RegIdx)
  | sub (rd rs1 rs2 : RegIdx)
  | sll (rd rs1 rs2 : RegIdx)
  | slt (rd rs1 rs2 : RegIdx)
  | sltu (rd rs1 rs2 : RegIdx)
  | xor (rd rs1 rs2 : RegIdx)
  | srl (rd rs1 rs2 : RegIdx)
  | sra (rd rs1 rs2 : RegIdx)
  | or (rd rs1 rs2 : RegIdx)
  | and (rd rs1 rs2 : RegIdx)
  -- ALU_I: rd, rs1, imm[11:0] or shamt (R213 to R221)
  | addi (rd rs1 : RegIdx) (imm : BitVec 12)
  | slti (rd rs1 : RegIdx) (imm : BitVec 12)
  | sltiu (rd rs1 : RegIdx) (imm : BitVec 12)
  | xori (rd rs1 : RegIdx) (imm : BitVec 12)
  | ori (rd rs1 : RegIdx) (imm : BitVec 12)
  | andi (rd rs1 : RegIdx) (imm : BitVec 12)
  | slli (rd rs1 : RegIdx) (shamt : BitVec 5)
  | srli (rd rs1 : RegIdx) (shamt : BitVec 5)
  | srai (rd rs1 : RegIdx) (shamt : BitVec 5)
  -- LOAD: rd, imm(rs1) (R286 to R290)
  | lb (rd rs1 : RegIdx) (imm : BitVec 12)
  | lh (rd rs1 : RegIdx) (imm : BitVec 12)
  | lw (rd rs1 : RegIdx) (imm : BitVec 12)
  | lbu (rd rs1 : RegIdx) (imm : BitVec 12)
  | lhu (rd rs1 : RegIdx) (imm : BitVec 12)
  -- STORE: rs2, imm(rs1) (R291 to R293)
  | sb (rs2 rs1 : RegIdx) (imm : BitVec 12)
  | sh (rs2 rs1 : RegIdx) (imm : BitVec 12)
  | sw (rs2 rs1 : RegIdx) (imm : BitVec 12)
  -- LUI: rd, imm20, the value of bits [31:12] (R240)
  | lui (rd : RegIdx) (imm20 : BitVec 20)
  -- JAL: rd, offset (R254); JALR: rd, imm(rs1) (R255)
  | jal (rd : RegIdx) (offset : BitVec 21)
  | jalr (rd rs1 : RegIdx) (imm : BitVec 12)
  -- BRANCH: rs1, rs2, offset (R257 to R262)
  | beq (rs1 rs2 : RegIdx) (offset : BitVec 13)
  | bne (rs1 rs2 : RegIdx) (offset : BitVec 13)
  | blt (rs1 rs2 : RegIdx) (offset : BitVec 13)
  | bge (rs1 rs2 : RegIdx) (offset : BitVec 13)
  | bltu (rs1 rs2 : RegIdx) (offset : BitVec 13)
  | bgeu (rs1 rs2 : RegIdx) (offset : BitVec 13)
  deriving DecidableEq, Repr

end Sys2Proof
end

