-- ==== Sys2Proof/WellFormed.lean ====
section
/-! DEFINITION. Which instructions have an encoding: the offset of a branch and of JAL is even, because imm[0] is
not encoded and is 0 (R115, R117, R263). Every other operand has an encoding at every value of its field. -/

namespace Sys2Proof

/-- The instruction has an encoding. -/
def Instr.wf : Instr → Bool
  | .add _ _ _ | .sub _ _ _ | .sll _ _ _ | .slt _ _ _ | .sltu _ _ _ => true
  | .xor _ _ _ | .srl _ _ _ | .sra _ _ _ | .or _ _ _ | .and _ _ _ => true
  | .addi _ _ _ | .slti _ _ _ | .sltiu _ _ _ | .xori _ _ _ | .ori _ _ _ | .andi _ _ _ => true
  | .slli _ _ _ | .srli _ _ _ | .srai _ _ _ => true
  | .lb _ _ _ | .lh _ _ _ | .lw _ _ _ | .lbu _ _ _ | .lhu _ _ _ => true
  | .sb _ _ _ | .sh _ _ _ | .sw _ _ _ => true
  | .lui _ _ | .jalr _ _ _ => true
  | .jal _ offset => !offset.getLsbD 0
  | .beq _ _ offset | .bne _ _ offset | .blt _ _ offset => !offset.getLsbD 0
  | .bge _ _ offset | .bltu _ _ offset | .bgeu _ _ offset => !offset.getLsbD 0

end Sys2Proof
end

