-- ==== Sys2Proof/Decode.lean ====
section
/-! DEFINITION. Decoding (R110 to R131) and, after it, encoding, both from the encoding tables of 30_encoding.md. The
decoder is total: a word it does not recognise is rejected by name, and Decode turns it into a bubble (R310). -/

namespace Sys2Proof

/-! ## Fields of a word (R111) -/

def opcodeOf (w : Word) : BitVec 7 := w.extractLsb' 0 7
def rdOf (w : Word) : RegIdx := w.extractLsb' 7 5
def funct3Of (w : Word) : BitVec 3 := w.extractLsb' 12 3
def rs1Of (w : Word) : RegIdx := w.extractLsb' 15 5
def rs2Of (w : Word) : RegIdx := w.extractLsb' 20 5
def shamtOf (w : Word) : BitVec 5 := w.extractLsb' 20 5
def funct7Of (w : Word) : BitVec 7 := w.extractLsb' 25 7

/-! ## Immediate fields, before extension (R113 to R117) -/

/-- imm[11:0] of the I format: bits [31:20]. -/
def immIField (w : Word) : BitVec 12 := w.extractLsb' 20 12

/-- imm[11:0] of the S format: bits [31:25], [11:7]. -/
def immSField (w : Word) : BitVec 12 := (w.extractLsb' 25 7 ++ w.extractLsb' 7 5).cast rfl

/-- imm[12:0] of the B format: bit [31], bit [7], bits [30:25], bits [11:8], then 0. -/
def immBField (w : Word) : BitVec 13 :=
  (w.extractLsb' 31 1 ++ w.extractLsb' 7 1 ++ w.extractLsb' 25 6 ++ w.extractLsb' 8 4 ++ 0#1).cast rfl

/-- imm[31:12] of the U format: bits [31:12]. -/
def immUField (w : Word) : BitVec 20 := w.extractLsb' 12 20

/-- imm[20:0] of the J format: bit [31], bits [19:12], bit [20], bits [30:21], then 0. -/
def immJField (w : Word) : BitVec 21 :=
  (w.extractLsb' 31 1 ++ w.extractLsb' 12 8 ++ w.extractLsb' 20 1 ++ w.extractLsb' 21 10 ++ 0#1).cast rfl

/-! ## Immediates, extended to 32 bits (R118 to R122) -/

/-- `immI` (R118) and `immS` (R119): a 12-bit field, sign-extended. -/
def sext12 (imm : BitVec 12) : Word := imm.signExtend 32

/-- `immB` (R120): a 13-bit byte offset, sign-extended. -/
def sext13 (imm : BitVec 13) : Word := imm.signExtend 32

/-- `immJ` (R122): a 21-bit byte offset, sign-extended. -/
def sext21 (imm : BitVec 21) : Word := imm.signExtend 32

/-- `immU` (R121): the 20-bit field in bits [31:12], the low 12 bits zero. -/
def upper20 (imm : BitVec 20) : Word := (imm ++ 0#12).cast rfl

/-! ## Major opcodes (R125) -/

def opAluReg : BitVec 7 := 0b0110011#7
def opAluImm : BitVec 7 := 0b0010011#7
def opLoad : BitVec 7 := 0b0000011#7
def opStore : BitVec 7 := 0b0100011#7
def opLui : BitVec 7 := 0b0110111#7
def opJal : BitVec 7 := 0b1101111#7
def opJalr : BitVec 7 := 0b1100111#7
def opBranch : BitVec 7 := 0b1100011#7

/-- Why the decoder gives no instruction. -/
inductive Reject where
  /-- The opcode is none of R125's eight values. -/
  | unknownOpcode
  /-- The opcode is one of R125's, and funct3 and funct7 are no combination of R127. -/
  | reservedFunct
  /-- Fewer than four bytes were given. -/
  | truncated
  deriving DecidableEq, Repr

/-- What the decoder answers. -/
inductive Decoded where
  | instr (i : Instr)
  | reject (why : Reject)
  deriving DecidableEq, Repr

/-- The decode classes of R125. -/
inductive Class where
  | aluReg
  | aluImm
  | load
  | store
  | lui
  | jal
  | jalr
  | branch
  deriving DecidableEq, Repr

/-- The class of an instruction (R125, R127). -/
def Instr.cls : Instr → Class
  | .add _ _ _ | .sub _ _ _ | .sll _ _ _ | .slt _ _ _ | .sltu _ _ _ => .aluReg
  | .xor _ _ _ | .srl _ _ _ | .sra _ _ _ | .or _ _ _ | .and _ _ _ => .aluReg
  | .addi _ _ _ | .slti _ _ _ | .sltiu _ _ _ | .xori _ _ _ | .ori _ _ _ | .andi _ _ _ => .aluImm
  | .slli _ _ _ | .srli _ _ _ | .srai _ _ _ => .aluImm
  | .lb _ _ _ | .lh _ _ _ | .lw _ _ _ | .lbu _ _ _ | .lhu _ _ _ => .load
  | .sb _ _ _ | .sh _ _ _ | .sw _ _ _ => .store
  | .lui _ _ => .lui
  | .jal _ _ => .jal
  | .jalr _ _ _ => .jalr
  | .beq _ _ _ | .bne _ _ _ | .blt _ _ _ | .bge _ _ _ | .bltu _ _ _ | .bgeu _ _ _ => .branch

/-! ## The rows of R127, class by class -/

/-- ALU_R rows: by funct7, then funct3. -/
def aluRegRow (f7 : BitVec 7) (f3 : BitVec 3) (rd rs1 rs2 : RegIdx) : Option Instr :=
  if f7 = 0b0000000#7 then
    if f3 = 0b000#3 then some (.add rd rs1 rs2)
    else if f3 = 0b001#3 then some (.sll rd rs1 rs2)
    else if f3 = 0b010#3 then some (.slt rd rs1 rs2)
    else if f3 = 0b011#3 then some (.sltu rd rs1 rs2)
    else if f3 = 0b100#3 then some (.xor rd rs1 rs2)
    else if f3 = 0b101#3 then some (.srl rd rs1 rs2)
    else if f3 = 0b110#3 then some (.or rd rs1 rs2)
    else some (.and rd rs1 rs2)
  else if f7 = 0b0100000#7 then
    if f3 = 0b000#3 then some (.sub rd rs1 rs2)
    else if f3 = 0b101#3 then some (.sra rd rs1 rs2)
    else none
  else none

/-- ALU_I rows. The shifts constrain funct7 and take `shamt`; for the others those bits are the immediate's. -/
def aluImmRow (f7 : BitVec 7) (f3 : BitVec 3) (rd rs1 : RegIdx) (imm : BitVec 12) (shamt : BitVec 5) : Option Instr :=
  if f3 = 0b000#3 then some (.addi rd rs1 imm)
  else if f3 = 0b010#3 then some (.slti rd rs1 imm)
  else if f3 = 0b011#3 then some (.sltiu rd rs1 imm)
  else if f3 = 0b100#3 then some (.xori rd rs1 imm)
  else if f3 = 0b110#3 then some (.ori rd rs1 imm)
  else if f3 = 0b111#3 then some (.andi rd rs1 imm)
  else if f3 = 0b001#3 then
    if f7 = 0b0000000#7 then some (.slli rd rs1 shamt) else none
  else if f7 = 0b0000000#7 then some (.srli rd rs1 shamt)
  else if f7 = 0b0100000#7 then some (.srai rd rs1 shamt)
  else none

/-- LOAD rows (also R280). -/
def loadRow (f3 : BitVec 3) (rd rs1 : RegIdx) (imm : BitVec 12) : Option Instr :=
  if f3 = 0b000#3 then some (.lb rd rs1 imm)
  else if f3 = 0b001#3 then some (.lh rd rs1 imm)
  else if f3 = 0b010#3 then some (.lw rd rs1 imm)
  else if f3 = 0b100#3 then some (.lbu rd rs1 imm)
  else if f3 = 0b101#3 then some (.lhu rd rs1 imm)
  else none

/-- STORE rows (also R280). -/
def storeRow (f3 : BitVec 3) (rs2 rs1 : RegIdx) (imm : BitVec 12) : Option Instr :=
  if f3 = 0b000#3 then some (.sb rs2 rs1 imm)
  else if f3 = 0b001#3 then some (.sh rs2 rs1 imm)
  else if f3 = 0b010#3 then some (.sw rs2 rs1 imm)
  else none

/-- The JALR row. -/
def jalrRow (f3 : BitVec 3) (rd rs1 : RegIdx) (imm : BitVec 12) : Option Instr :=
  if f3 = 0b000#3 then some (.jalr rd rs1 imm) else none

/-- BRANCH rows. -/
def branchRow (f3 : BitVec 3) (rs1 rs2 : RegIdx) (offset : BitVec 13) : Option Instr :=
  if f3 = 0b000#3 then some (.beq rs1 rs2 offset)
  else if f3 = 0b001#3 then some (.bne rs1 rs2 offset)
  else if f3 = 0b100#3 then some (.blt rs1 rs2 offset)
  else if f3 = 0b101#3 then some (.bge rs1 rs2 offset)
  else if f3 = 0b110#3 then some (.bltu rs1 rs2 offset)
  else if f3 = 0b111#3 then some (.bgeu rs1 rs2 offset)
  else none

/-- A row of a recognised opcode, or the rejection of R126. -/
def Decoded.ofRow : Option Instr → Decoded
  | some i => .instr i
  | none => .reject .reservedFunct

/-- The decoder: by major opcode (R125), then by the rows of R127 (R126, R129). -/
def decode (w : Word) : Decoded :=
  if opcodeOf w = opAluReg then .ofRow (aluRegRow (funct7Of w) (funct3Of w) (rdOf w) (rs1Of w) (rs2Of w))
  else if opcodeOf w = opAluImm then
    .ofRow (aluImmRow (funct7Of w) (funct3Of w) (rdOf w) (rs1Of w) (immIField w) (shamtOf w))
  else if opcodeOf w = opLoad then .ofRow (loadRow (funct3Of w) (rdOf w) (rs1Of w) (immIField w))
  else if opcodeOf w = opStore then .ofRow (storeRow (funct3Of w) (rs2Of w) (rs1Of w) (immSField w))
  else if opcodeOf w = opLui then .instr (.lui (rdOf w) (immUField w))
  else if opcodeOf w = opJal then .instr (.jal (rdOf w) (immJField w))
  else if opcodeOf w = opJalr then .ofRow (jalrRow (funct3Of w) (rdOf w) (rs1Of w) (immIField w))
  else if opcodeOf w = opBranch then .ofRow (branchRow (funct3Of w) (rs1Of w) (rs2Of w) (immBField w))
  else .reject .unknownOpcode

/-- An instruction word from its four bytes, the one at the lowest address first: little-endian (R80, R110). -/
def wordOfBytes (b0 b1 b2 b3 : Byte) : Word := (b3 ++ b2 ++ b1 ++ b0).cast rfl

/-- The four bytes of a word, the one at the lowest address first (R80). -/
def bytesOfWord (w : Word) : List Byte :=
  [w.extractLsb' 0 8, w.extractLsb' 8 8, w.extractLsb' 16 8, w.extractLsb' 24 8]

/-- Decoding from a stream of bytes: an instruction is its first four (R110). -/
def decodeBytes : List Byte → Decoded
  | b0 :: b1 :: b2 :: b3 :: _ => decode (wordOfBytes b0 b1 b2 b3)
  | _ => .reject .truncated

/-! ## Encoding, by the formats of R112 to R117 -/

/-- R format (R112). -/
def encR (f7 : BitVec 7) (rs2 rs1 : RegIdx) (f3 : BitVec 3) (rd : RegIdx) (op : BitVec 7) : Word :=
  (f7 ++ rs2 ++ rs1 ++ f3 ++ rd ++ op).cast rfl

/-- I format (R113). -/
def encI (imm : BitVec 12) (rs1 : RegIdx) (f3 : BitVec 3) (rd : RegIdx) (op : BitVec 7) : Word :=
  (imm ++ rs1 ++ f3 ++ rd ++ op).cast rfl

/-- S format (R114). -/
def encS (imm : BitVec 12) (rs2 rs1 : RegIdx) (f3 : BitVec 3) (op : BitVec 7) : Word :=
  (imm.extractLsb' 5 7 ++ rs2 ++ rs1 ++ f3 ++ imm.extractLsb' 0 5 ++ op).cast rfl

/-- B format (R115); bit 0 of the offset is not encoded. -/
def encB (offset : BitVec 13) (rs2 rs1 : RegIdx) (f3 : BitVec 3) (op : BitVec 7) : Word :=
  (offset.extractLsb' 12 1 ++ offset.extractLsb' 5 6 ++ rs2 ++ rs1 ++ f3 ++ offset.extractLsb' 1 4 ++
    offset.extractLsb' 11 1 ++ op).cast rfl

/-- U format (R116). -/
def encU (imm : BitVec 20) (rd : RegIdx) (op : BitVec 7) : Word := (imm ++ rd ++ op).cast rfl

/-- J format (R117); bit 0 of the offset is not encoded. -/
def encJ (offset : BitVec 21) (rd : RegIdx) (op : BitVec 7) : Word :=
  (offset.extractLsb' 20 1 ++ offset.extractLsb' 1 10 ++ offset.extractLsb' 11 1 ++ offset.extractLsb' 12 8 ++ rd ++
    op).cast rfl

/-- The word of an instruction (R127). An ill-formed instruction has none; its offset's bit 0 is dropped. -/
def encode : Instr → Word
  | .add rd rs1 rs2 => encR 0b0000000#7 rs2 rs1 0b000#3 rd opAluReg
  | .sub rd rs1 rs2 => encR 0b0100000#7 rs2 rs1 0b000#3 rd opAluReg
  | .sll rd rs1 rs2 => encR 0b0000000#7 rs2 rs1 0b001#3 rd opAluReg
  | .slt rd rs1 rs2 => encR 0b0000000#7 rs2 rs1 0b010#3 rd opAluReg
  | .sltu rd rs1 rs2 => encR 0b0000000#7 rs2 rs1 0b011#3 rd opAluReg
  | .xor rd rs1 rs2 => encR 0b0000000#7 rs2 rs1 0b100#3 rd opAluReg
  | .srl rd rs1 rs2 => encR 0b0000000#7 rs2 rs1 0b101#3 rd opAluReg
  | .sra rd rs1 rs2 => encR 0b0100000#7 rs2 rs1 0b101#3 rd opAluReg
  | .or rd rs1 rs2 => encR 0b0000000#7 rs2 rs1 0b110#3 rd opAluReg
  | .and rd rs1 rs2 => encR 0b0000000#7 rs2 rs1 0b111#3 rd opAluReg
  | .addi rd rs1 imm => encI imm rs1 0b000#3 rd opAluImm
  | .slti rd rs1 imm => encI imm rs1 0b010#3 rd opAluImm
  | .sltiu rd rs1 imm => encI imm rs1 0b011#3 rd opAluImm
  | .xori rd rs1 imm => encI imm rs1 0b100#3 rd opAluImm
  | .ori rd rs1 imm => encI imm rs1 0b110#3 rd opAluImm
  | .andi rd rs1 imm => encI imm rs1 0b111#3 rd opAluImm
  | .slli rd rs1 shamt => encR 0b0000000#7 shamt rs1 0b001#3 rd opAluImm
  | .srli rd rs1 shamt => encR 0b0000000#7 shamt rs1 0b101#3 rd opAluImm
  | .srai rd rs1 shamt => encR 0b0100000#7 shamt rs1 0b101#3 rd opAluImm
  | .lb rd rs1 imm => encI imm rs1 0b000#3 rd opLoad
  | .lh rd rs1 imm => encI imm rs1 0b001#3 rd opLoad
  | .lw rd rs1 imm => encI imm rs1 0b010#3 rd opLoad
  | .lbu rd rs1 imm => encI imm rs1 0b100#3 rd opLoad
  | .lhu rd rs1 imm => encI imm rs1 0b101#3 rd opLoad
  | .sb rs2 rs1 imm => encS imm rs2 rs1 0b000#3 opStore
  | .sh rs2 rs1 imm => encS imm rs2 rs1 0b001#3 opStore
  | .sw rs2 rs1 imm => encS imm rs2 rs1 0b010#3 opStore
  | .lui rd imm20 => encU imm20 rd opLui
  | .jal rd offset => encJ offset rd opJal
  | .jalr rd rs1 imm => encI imm rs1 0b000#3 rd opJalr
  | .beq rs1 rs2 offset => encB offset rs2 rs1 0b000#3 opBranch
  | .bne rs1 rs2 offset => encB offset rs2 rs1 0b001#3 opBranch
  | .blt rs1 rs2 offset => encB offset rs2 rs1 0b100#3 opBranch
  | .bge rs1 rs2 offset => encB offset rs2 rs1 0b101#3 opBranch
  | .bltu rs1 rs2 offset => encB offset rs2 rs1 0b110#3 opBranch
  | .bgeu rs1 rs2 offset => encB offset rs2 rs1 0b111#3 opBranch

/-! ## The opcode table (R128) -/

/-- One row of spec/opcode_table.json: a word belongs to the row when the bits under the mask are the match. -/
structure TableRow where
  mnemonic : String
  pattern : Word
  mask : Word
  deriving DecidableEq, Repr

/-- ALU_R rows of the opcode table. -/
def aluRegTable : List TableRow :=
  [ { mnemonic := "ADD", pattern := 0x00000033#32, mask := 0xFE00707F#32 },
    { mnemonic := "SUB", pattern := 0x40000033#32, mask := 0xFE00707F#32 },
    { mnemonic := "SLL", pattern := 0x00001033#32, mask := 0xFE00707F#32 },
    { mnemonic := "SLT", pattern := 0x00002033#32, mask := 0xFE00707F#32 },
    { mnemonic := "SLTU", pattern := 0x00003033#32, mask := 0xFE00707F#32 },
    { mnemonic := "XOR", pattern := 0x00004033#32, mask := 0xFE00707F#32 },
    { mnemonic := "SRL", pattern := 0x00005033#32, mask := 0xFE00707F#32 },
    { mnemonic := "SRA", pattern := 0x40005033#32, mask := 0xFE00707F#32 },
    { mnemonic := "OR", pattern := 0x00006033#32, mask := 0xFE00707F#32 },
    { mnemonic := "AND", pattern := 0x00007033#32, mask := 0xFE00707F#32 } ]

/-- ALU_I rows of the opcode table. -/
def aluImmTable : List TableRow :=
  [ { mnemonic := "ADDI", pattern := 0x00000013#32, mask := 0x0000707F#32 },
    { mnemonic := "SLTI", pattern := 0x00002013#32, mask := 0x0000707F#32 },
    { mnemonic := "SLTIU", pattern := 0x00003013#32, mask := 0x0000707F#32 },
    { mnemonic := "XORI", pattern := 0x00004013#32, mask := 0x0000707F#32 },
    { mnemonic := "ORI", pattern := 0x00006013#32, mask := 0x0000707F#32 },
    { mnemonic := "ANDI", pattern := 0x00007013#32, mask := 0x0000707F#32 },
    { mnemonic := "SLLI", pattern := 0x00001013#32, mask := 0xFE00707F#32 },
    { mnemonic := "SRLI", pattern := 0x00005013#32, mask := 0xFE00707F#32 },
    { mnemonic := "SRAI", pattern := 0x40005013#32, mask := 0xFE00707F#32 } ]

/-- LOAD and STORE rows of the opcode table. -/
def loadStoreTable : List TableRow :=
  [ { mnemonic := "LB", pattern := 0x00000003#32, mask := 0x0000707F#32 },
    { mnemonic := "LH", pattern := 0x00001003#32, mask := 0x0000707F#32 },
    { mnemonic := "LW", pattern := 0x00002003#32, mask := 0x0000707F#32 },
    { mnemonic := "LBU", pattern := 0x00004003#32, mask := 0x0000707F#32 },
    { mnemonic := "LHU", pattern := 0x00005003#32, mask := 0x0000707F#32 },
    { mnemonic := "SB", pattern := 0x00000023#32, mask := 0x0000707F#32 },
    { mnemonic := "SH", pattern := 0x00001023#32, mask := 0x0000707F#32 },
    { mnemonic := "SW", pattern := 0x00002023#32, mask := 0x0000707F#32 } ]

/-- LUI, JAL, JALR and BRANCH rows of the opcode table. -/
def transferTable : List TableRow :=
  [ { mnemonic := "LUI", pattern := 0x00000037#32, mask := 0x0000007F#32 },
    { mnemonic := "JAL", pattern := 0x0000006F#32, mask := 0x0000007F#32 },
    { mnemonic := "JALR", pattern := 0x00000067#32, mask := 0x0000707F#32 },
    { mnemonic := "BEQ", pattern := 0x00000063#32, mask := 0x0000707F#32 },
    { mnemonic := "BNE", pattern := 0x00001063#32, mask := 0x0000707F#32 },
    { mnemonic := "BLT", pattern := 0x00004063#32, mask := 0x0000707F#32 },
    { mnemonic := "BGE", pattern := 0x00005063#32, mask := 0x0000707F#32 },
    { mnemonic := "BLTU", pattern := 0x00006063#32, mask := 0x0000707F#32 },
    { mnemonic := "BGEU", pattern := 0x00007063#32, mask := 0x0000707F#32 } ]

/-- The 36 rows. -/
def opcodeTable : List TableRow := aluRegTable ++ aluImmTable ++ loadStoreTable ++ transferTable

/-- The word belongs to the row (R128). -/
def TableRow.matches (r : TableRow) (w : Word) : Bool := w &&& r.mask == r.pattern

/-- The instruction's mnemonic in the opcode table. -/
def Instr.mnemonic : Instr → String
  | .add _ _ _ => "ADD"
  | .sub _ _ _ => "SUB"
  | .sll _ _ _ => "SLL"
  | .slt _ _ _ => "SLT"
  | .sltu _ _ _ => "SLTU"
  | .xor _ _ _ => "XOR"
  | .srl _ _ _ => "SRL"
  | .sra _ _ _ => "SRA"
  | .or _ _ _ => "OR"
  | .and _ _ _ => "AND"
  | .addi _ _ _ => "ADDI"
  | .slti _ _ _ => "SLTI"
  | .sltiu _ _ _ => "SLTIU"
  | .xori _ _ _ => "XORI"
  | .ori _ _ _ => "ORI"
  | .andi _ _ _ => "ANDI"
  | .slli _ _ _ => "SLLI"
  | .srli _ _ _ => "SRLI"
  | .srai _ _ _ => "SRAI"
  | .lb _ _ _ => "LB"
  | .lh _ _ _ => "LH"
  | .lw _ _ _ => "LW"
  | .lbu _ _ _ => "LBU"
  | .lhu _ _ _ => "LHU"
  | .sb _ _ _ => "SB"
  | .sh _ _ _ => "SH"
  | .sw _ _ _ => "SW"
  | .lui _ _ => "LUI"
  | .jal _ _ => "JAL"
  | .jalr _ _ _ => "JALR"
  | .beq _ _ _ => "BEQ"
  | .bne _ _ _ => "BNE"
  | .blt _ _ _ => "BLT"
  | .bge _ _ _ => "BGE"
  | .bltu _ _ _ => "BLTU"
  | .bgeu _ _ _ => "BGEU"

/-- The word the opcode table numbers as the low `nbits` bits of `w`, every bit above them 0. -/
def tableWord (nbits w : Nat) : Word := BitVec.ofNat 32 (w % 2 ^ nbits)

/-- What the decoder reads from an instruction whose bits are `w`, numbered as the opcode table numbers them and laid
out in memory as the hardware stores them (R80, R110). -/
def decodeTableWord (nbits w : Nat) : Option Instr :=
  match decodeBytes (bytesOfWord (tableWord nbits w)) with
  | .instr i => some i
  | .reject _ => none

end Sys2Proof
end

