-- ==== Sys2Proof/Config.lean ====
section
/-! DEFINITION. The configuration record of R10: what one construction of the core fixes for good. The spec leaves
no value open (R55), so there is no free value here. -/

namespace Sys2Proof

/-- One memory device's address range: `[base, base + size)` in bytes (R71, R72). -/
structure Region where
  base : Word
  size : Nat
  deriving DecidableEq, Repr

/-- `HAZARD_POLICY` (R10, R155). -/
inductive HazardPolicy where
  /-- Decode stalls on a read-after-write dependence (the default). -/
  | interlock
  /-- The source's baseline: no stall, Decode may read a stale value. -/
  | none
  deriving DecidableEq, Repr

/-- The configuration parameters of R10, under the spec's names. -/
structure Config where
  /-- `ROM_BASE`: first byte address of the ROM and entry point. -/
  romBase : Word
  /-- `ROM_SIZE` in bytes. -/
  romSize : Nat
  /-- `RAM_REGIONS`, in bus dispatch order. -/
  ramRegions : List Region
  /-- `HAZARD_POLICY`. -/
  hazardPolicy : HazardPolicy
  /-- `LINK_WRITE`: whether JAL and JALR write `pc + 4` to `rd`. -/
  linkWrite : Bool
  /-- `SRA_IMPLEMENTED`: whether SRA and SRAI shift arithmetically. -/
  sraImplemented : Bool
  deriving DecidableEq, Repr

/-- The default of every parameter (R10; log entry 6). -/
def Config.default : Config :=
  { romBase := 0x10000000#32
    romSize := 0x10000
    ramRegions := [{ base := 0x20000000#32, size := 0x10000 }]
    hazardPolicy := .interlock
    linkWrite := true
    sraImplemented := false }

end Sys2Proof
end

