-- ==== Sys2Proof/Machine/State.lean ====
section
/-! DEFINITION. The state of the core (R54), as plain data, what a step works on, and the value at construction (R55,
R350). A register cell is represented by its current value alone, as R33 allows. -/

namespace Sys2Proof.Machine

/-- The error values of the bus (R322). -/
inductive BusError where
  /-- A half-word access at an odd address, or a word access at an address that is no multiple of 4 (R75). -/
  | misalignedAccess
  /-- The address is in no ROM or RAM region (R74). -/
  | unmappedAddress
  /-- A write to an address in ROM (R78). -/
  | readOnlyViolation
  deriving DecidableEq, Repr

/-- The two kinds of data access (R51). -/
inductive Access where
  | load
  | store
  deriving DecidableEq, Repr

/-- The access widths of the bus, 1, 2 and 4 bytes (R17, R83). -/
inductive Width where
  | byte
  | half
  | word
  deriving DecidableEq, Repr

/-- What an address routes to (R74). -/
inductive Device where
  | rom
  | ram
  | unmapped
  deriving DecidableEq, Repr

/-- The F latch (R43); `pc` is the program counter (R41). -/
structure FLatch where
  pc : Word
  pcPlus4 : Word
  instruction : Word
  deriving DecidableEq, Repr

/-- The D latch, `DecodedValues` (R44). -/
structure DLatch where
  isAlu : Bool
  aluReg : Bool
  isLoad : Bool
  isStore : Bool
  isLui : Bool
  isJal : Bool
  isJalr : Bool
  isBranch : Bool
  rd : RegIdx
  funct3 : BitVec 3
  funct7 : BitVec 7
  shamt : BitVec 5
  rs1 : RegIdx
  rs2 : RegIdx
  rs1Value : Word
  rs2Value : Word
  imm : Word
  pcPlus4 : Word
  wbEnable : Bool
  branchTarget : Word
  branchValid : Bool
  deriving DecidableEq, Repr

/-- The E latch, `ExecutedValues` (R45). -/
structure ELatch where
  result : Word
  rd : RegIdx
  rs1Value : Word
  rs2Value : Word
  imm : Word
  funct3 : BitVec 3
  isLoad : Bool
  isStore : Bool
  wbEnable : Bool
  deriving DecidableEq, Repr

/-- The M latch (R46). -/
structure MLatch where
  wbValue : Word
  rd : RegIdx
  wbValid : Bool
  deriving DecidableEq, Repr

/-- `Bubble_D`: every field 0 (R171). -/
def DLatch.bubble : DLatch :=
  { isAlu := false, aluReg := false, isLoad := false, isStore := false, isLui := false, isJal := false
    isJalr := false, isBranch := false, rd := 0#5, funct3 := 0#3, funct7 := 0#7, shamt := 0#5, rs1 := 0#5
    rs2 := 0#5, rs1Value := 0#32, rs2Value := 0#32, imm := 0#32, pcPlus4 := 0#32, wbEnable := false
    branchTarget := 0#32, branchValid := false }

/-- `Bubble_E`: every field 0 (R171). -/
def ELatch.bubble : ELatch :=
  { result := 0#32, rd := 0#5, rs1Value := 0#32, rs2Value := 0#32, imm := 0#32, funct3 := 0#3
    isLoad := false, isStore := false, wbEnable := false }

/-- `Bubble_M`: every field 0 (R171). -/
def MLatch.bubble : MLatch := { wbValue := 0#32, rd := 0#5, wbValid := false }

/-- The record of a fetch fault (R50, R323). -/
structure FetchFaultRecord where
  cycle : Nat
  kind : BusError
  addr : Word
  deriving DecidableEq, Repr

/-- The record of a data fault (R51, R323). -/
structure DataFaultRecord where
  cycle : Nat
  kind : BusError
  access : Access
  addr : Word
  width : Width
  deriving DecidableEq, Repr

/-- Memory: the bytes of ROM and RAM that are not 0, by address, addresses rising (R53, R70; log entry 4). -/
abbrev Memory := List Host.Cell

/-- The complete state of the core, and nothing else (R54). The configuration is a parameter of the cycle function
(`cycleOf`), not a field. -/
structure CoreState where
  /-- Registers `x1` to `x31`, `x1` first; `x0` is not stored (R35, R54). -/
  x : Vector Word 31
  f : FLatch
  d : DLatch
  e : ELatch
  m : MLatch
  /-- ROM and RAM (R53). -/
  mem : Memory
  /-- Set by a fetch fault, never cleared (R49). -/
  halted : Bool
  fetchFault : Option FetchFaultRecord
  /-- Oldest first (R51, R179). -/
  dataFaults : List DataFaultRecord
  cycleCount : Nat
  deriving DecidableEq, Repr

/-- What the machine steps on: the state of the core (R54) together with the two arguments of R179's cycle function, which
are no state of the core: the configuration (log entry 2) and the host's coming `freeze` inputs (log entry 3). -/
structure State extends CoreState where
  /-- The configuration (R10); no step changes it. -/
  cfg : Config
  /-- The `freeze` input of each coming `Cycle` call, false when the list is empty (R152). -/
  freezeIn : List Bool
  deriving DecidableEq, Repr

/-- Why an operation ends in a fault. A step ends in none: a data fault is a record in `dataFaults` and a fetch fault
halts the machine, both in a next state (R324, R327, R160). -/
inductive Fault where
  /-- The error a bus write of the host's returns to the host, which is not logged and writes nothing (R354, R94);
  raised by `hostWrite` only. Safe: the host gets the error the spec names. -/
  | hostBus (kind : BusError)
  deriving DecidableEq, Repr

/-- Why an operation is refused. A step refuses nothing. -/
inductive Refusal where
  /-- An instruction without a meaning. None is left: no arm of `exec` raises it. Safe. -/
  | notModelled (mnemonic : String)
  /-- A configuration that breaks R73: it describes no hardware of the spec; raised by `State.construct`. Safe. -/
  | badConfiguration
  /-- A host load or write after the first `Cycle` call (R352, R353, R354); raised by the host operations. Safe. -/
  | afterFirstCycle
  /-- An image longer than the ROM (R352); raised by `romLoad`. Safe. -/
  | romImageTooLong
  deriving DecidableEq, Repr

/-- What an operation on the state answers. -/
abbrev Result := Host.Outcome State Fault Refusal

/-- The state of the core right after `System.new()` with a configuration (R55, R350). -/
def CoreState.initial (c : Config) : CoreState :=
  { x := Vector.replicate 31 0#32
    f := { pc := c.romBase, pcPlus4 := c.romBase, instruction := 0#32 }
    d := DLatch.bubble
    e := ELatch.bubble
    m := MLatch.bubble
    mem := []
    halted := false
    fetchFault := none
    dataFaults := []
    cycleCount := 0 }

/-- The core right after `System.new()`, beside its configuration and a host that freezes no cycle. -/
def State.initial (c : Config) : State := { CoreState.initial c with cfg := c, freezeIn := [] }

/-- The machine right after reset: constructed with the default configuration (R10, R55, R350; log entry 6). -/
def State.reset : State := State.initial Config.default

end Sys2Proof.Machine
end

