-- ==== Sys2Proof/Machine/Ops.lean ====
section
/-! DEFINITION. The shared operations over registers, memory and the bus (10_state.md, 20_memory.md), and the two ways a
fault is taken (60_exceptions.md): there is no trap entry and no trap return (R320, R335). -/

namespace Sys2Proof.Machine

/-! ## Registers (R35, R36) -/

/-- `x[i]` (R15): index 0 reads 0 without touching the array (R35). -/
def readFile (x : Vector Word 31) (i : RegIdx) : Word :=
  if i = 0#5 then 0#32 else x[i.toNat - 1]'(by have := i.isLt; omega)

/-- `x[i] <- v` (R15): a write to index 0 is discarded (R36). -/
def writeFile (x : Vector Word 31) (i : RegIdx) (v : Word) : Vector Word 31 :=
  if i = 0#5 then x else x.set (i.toNat - 1) v (by have := i.isLt; omega)

/-- `x[i]` of a state (R15). -/
def State.readReg (s : State) (i : RegIdx) : Word := readFile s.x i

/-! ## Bytes of memory (R79, R80) -/

/-- What an address that no cell lists reads as: ROM and RAM are zero at construction (R71, R72). -/
def Memory.blank : Byte := 0#8

/-- One byte of memory. -/
def Memory.readByte : Memory → Nat → Byte
  | [], _ => Memory.blank
  | (k, v) :: m, a => if k = a then v else Memory.readByte m a

/-- Memory with one byte written; the list keeps its canonical form. -/
def Memory.writeByte : Memory → Nat → Byte → Memory
  | [], a, b => if b = Memory.blank then [] else [(a, b)]
  | (k, v) :: m, a, b =>
    if a < k then (if b = Memory.blank then (k, v) :: m else (a, b) :: (k, v) :: m)
    else if a = k then (if b = Memory.blank then m else (a, b) :: m)
    else (k, v) :: Memory.writeByte m a b

/-- The canonical form: addresses strictly rising, no cell equal to what an unlisted address reads as. -/
abbrev Memory.wf (m : Memory) : Prop := m.Pairwise (fun p q => p.1 < q.1) ∧ ∀ c ∈ m, c.2 ≠ Memory.blank

/-- Memory with bytes written at `a`, `a + 1`, and so on. -/
def Memory.writeBytes : Memory → Nat → List Byte → Memory
  | m, _, [] => m
  | m, a, b :: bs => Memory.writeBytes (Memory.writeByte m a b) (a + 1) bs

/-- The bytes of an access at `a`, little-endian, zero-filled to 32 bits (R77, R79, R80). -/
def Memory.readLE (m : Memory) (a : Nat) : Width → Word
  | .byte => (Memory.readByte m a).setWidth 32
  | .half => (Memory.readByte m (a + 1) ++ Memory.readByte m a).setWidth 32
  | .word =>
    wordOfBytes (Memory.readByte m a) (Memory.readByte m (a + 1)) (Memory.readByte m (a + 2)) (Memory.readByte m (a + 3))

/-! ## The address map (R71 to R74) and the configurations the spec has (R73) -/

/-- The width of an access in bytes (R17). -/
def Width.bytes : Width → Nat
  | .byte => 1
  | .half => 2
  | .word => 4

/-- The ROM's region (R71). -/
def romRegion (c : Config) : Region := { base := c.romBase, size := c.romSize }

/-- The address lies in the region's `[base, base + size)` (R74). -/
def inRegion (r : Region) (a : Word) : Bool := r.base.toNat ≤ a.toNat && a.toNat < r.base.toNat + r.size

/-- `Region(a)` of R74: which device an address routes to. -/
def deviceAt (c : Config) (a : Word) : Device :=
  if inRegion (romRegion c) a then .rom
  else if c.ramRegions.any (fun r => inRegion r a) then .ram
  else .unmapped

/-- A region's own constraints: base and size multiples of 4, size above 0, no byte past `0xFFFFFFFF` (R73). -/
def regionOk (r : Region) : Bool :=
  r.base.toNat % 4 == 0 && r.size % 4 == 0 && decide (0 < r.size) && decide (r.base.toNat + r.size ≤ 2 ^ 32)

/-- Two regions share no address (R73). -/
def disjointRegions (r q : Region) : Bool :=
  decide (r.base.toNat + r.size ≤ q.base.toNat) || decide (q.base.toNat + q.size ≤ r.base.toNat)

/-- The regions are pairwise disjoint (R73). -/
def pairwiseDisjoint : List Region → Bool
  | [] => true
  | r :: rs => rs.all (disjointRegions r) && pairwiseDisjoint rs

/-- The configuration describes a hardware of the spec (R73), with at least one RAM region (R10). -/
def configOk (c : Config) : Bool :=
  (romRegion c :: c.ramRegions).all regionOk && pairwiseDisjoint (romRegion c :: c.ramRegions) && !c.ramRegions.isEmpty

/-! ## The bus (R75 to R79) -/

/-- `Aligned(a, n)` (R75). -/
def aligned (a : Word) : Width → Bool
  | .byte => true
  | .half => a.extractLsb' 0 1 == 0#1
  | .word => a.extractLsb' 0 2 == 0#2

/-- `MemRead(a, n)` (R77), with the error priority of R76; it changes no state. -/
def busRead (c : Config) (m : Memory) (a : Word) (n : Width) : Except BusError Word :=
  if aligned a n then
    match deviceAt c a with
    | .unmapped => .error .unmappedAddress
    | .rom => .ok (Memory.readLE m a.toNat n)
    | .ram => .ok (Memory.readLE m a.toNat n)
  else .error .misalignedAccess

/-- A store's staged bytes: written at the end of the cycle (R78, R82). -/
structure StagedWrite where
  addr : Nat
  bytes : List Byte
  deriving DecidableEq, Repr

/-- The low 8·n bits of a value, the least significant byte first (R78, R80). -/
def lowBytes (v : Word) (n : Width) : List Byte := (bytesOfWord v).take n.bytes

/-- `MemWrite(a, n, v)` (R78), with the error priority of R76. -/
def busWrite (c : Config) (a : Word) (n : Width) (v : Word) : Except BusError StagedWrite :=
  if aligned a n then
    match deviceAt c a with
    | .unmapped => .error .unmappedAddress
    | .rom => .error .readOnlyViolation
    | .ram => .ok { addr := a.toNat, bytes := lowBytes v n }
  else .error .misalignedAccess

/-- Memory after the staged write of a cycle, if there is one (R82). -/
def applyWrite (m : Memory) : Option StagedWrite → Memory
  | none => m
  | some w => Memory.writeBytes m w.addr w.bytes

/-! ## Faults (R320 to R328) -/

/-- The numeric code of a fault kind (R322). -/
def BusError.code : BusError → Nat
  | .misalignedAccess => 1
  | .unmappedAddress => 2
  | .readOnlyViolation => 3

/-- `raise FetchFault(kind, addr)` (R18, R160, R327): the machine halts; the caller has dropped everything else of the
cycle but the count. -/
def State.raiseFetchFault (s : State) (kind : BusError) (addr : Word) : State :=
  { s with halted := true, fetchFault := some { cycle := s.cycleCount, kind := kind, addr := addr } }

/-- `raise DataFault(kind, access, addr, n)` (R18, R324): the record is appended, and execution goes on. -/
def State.raiseDataFault (s : State) (kind : BusError) (access : Access) (addr : Word) (n : Width) : State :=
  { s with dataFaults :=
      s.dataFaults ++ [{ cycle := s.cycleCount, kind := kind, access := access, addr := addr, width := n }] }

/-- A `Cycle` call of a machine that is not halted counts, frozen cycles included (R52). -/
def State.tick (s : State) : State := { s with cycleCount := s.cycleCount + 1 }

end Sys2Proof.Machine
end

