-- ==== Sys2Proof/Machine/Operands.lean ====
section
/-! DEFINITION. What Decode makes of an instruction's operands (R162 to R167): the raw fields of each format, the register
reads and the immediate; and the effective address, width and extension of a load or store (R174, R176, R280). -/

namespace Sys2Proof.Machine

/-- The fields Decode extracts from every word, whatever its format (R111, R162). -/
structure RawFields where
  rd : RegIdx
  funct3 : BitVec 3
  rs1 : RegIdx
  rs2 : RegIdx
  funct7 : BitVec 7
  deriving DecidableEq, Repr

/-- The raw fields of an R-format word (R112); a shift-immediate word has `shamt` in place of rs2 (R113). -/
def rawR (f7 : BitVec 7) (rs2 rs1 : RegIdx) (f3 : BitVec 3) (rd : RegIdx) : RawFields :=
  { rd := rd, funct3 := f3, rs1 := rs1, rs2 := rs2, funct7 := f7 }

/-- The raw fields of an I-format word (R113): the immediate fills funct7 and rs2. -/
def rawI (imm : BitVec 12) (rs1 : RegIdx) (f3 : BitVec 3) (rd : RegIdx) : RawFields :=
  { rd := rd, funct3 := f3, rs1 := rs1, rs2 := imm.extractLsb' 0 5, funct7 := imm.extractLsb' 5 7 }

/-- The raw fields of an S-format word (R114): the immediate fills funct7 and rd. -/
def rawS (imm : BitVec 12) (rs2 rs1 : RegIdx) (f3 : BitVec 3) : RawFields :=
  { rd := imm.extractLsb' 0 5, funct3 := f3, rs1 := rs1, rs2 := rs2, funct7 := imm.extractLsb' 5 7 }

/-- The raw fields of a B-format word (R115): the offset fills funct7 and rd. -/
def rawB (offset : BitVec 13) (rs2 rs1 : RegIdx) (f3 : BitVec 3) : RawFields :=
  { rd := (offset.extractLsb' 1 4 ++ offset.extractLsb' 11 1).cast rfl
    funct3 := f3
    rs1 := rs1
    rs2 := rs2
    funct7 := (offset.extractLsb' 12 1 ++ offset.extractLsb' 5 6).cast rfl }

/-- The raw fields of a U-format word (R116): the immediate fills all but rd. -/
def rawU (imm : BitVec 20) (rd : RegIdx) : RawFields :=
  { rd := rd
    funct3 := imm.extractLsb' 0 3
    rs1 := imm.extractLsb' 3 5
    rs2 := imm.extractLsb' 8 5
    funct7 := imm.extractLsb' 13 7 }

/-- The raw fields of a J-format word (R117): the offset fills all but rd. -/
def rawJ (offset : BitVec 21) (rd : RegIdx) : RawFields :=
  { rd := rd
    funct3 := offset.extractLsb' 12 3
    rs1 := offset.extractLsb' 15 5
    rs2 := (offset.extractLsb' 1 4 ++ offset.extractLsb' 11 1).cast rfl
    funct7 := (offset.extractLsb' 20 1 ++ offset.extractLsb' 5 6).cast rfl }

/-- The part of the D latch that Decode fills alike for every recognised word: the raw fields (R162; `shamt` and rs2 are
the same bits), both register reads (R163) and `pcPlus4` (R167). Flags, immediate, write enable and target are 0. -/
def rawLatch (r : RawFields) (s : State) : DLatch :=
  { DLatch.bubble with
    rd := r.rd, funct3 := r.funct3, funct7 := r.funct7, shamt := r.rs2, rs1 := r.rs1, rs2 := r.rs2
    rs1Value := s.readReg r.rs1, rs2Value := s.readReg r.rs2, pcPlus4 := s.f.pcPlus4 }

/-- The width of a load or store: funct3[1:0] = 00, 01, 10 for 1, 2, 4 bytes (R174, R280). No recognised load or store has
11 there (log entry 7). -/
def widthOf (f3 : BitVec 3) : Width :=
  if f3.extractLsb' 0 2 = 0b00#2 then .byte
  else if f3.extractLsb' 0 2 = 0b01#2 then .half
  else .word

/-- The effective address (R174, R281): the sum wraps modulo 2^32. -/
def effectiveAddr (e : ELatch) : Word := e.rs1Value + e.imm

/-- The extension of a loaded value: funct3[2] = 0 copies the top bit of the n bytes, 1 fills zeros (R176, R280). -/
def extendLoaded (f3 : BitVec 3) (n : Width) (v : Word) : Word :=
  if f3.getLsbD 2 then
    match n with
    | .byte => (v.setWidth 8).setWidth 32
    | .half => (v.setWidth 16).setWidth 32
    | .word => v
  else
    match n with
    | .byte => (v.setWidth 8).signExtend 32
    | .half => (v.setWidth 16).signExtend 32
    | .word => v

end Sys2Proof.Machine
end

