-- ==== Sys2Proof/Machine/Flags.lean ====
section
/-! DEFINITION. The core has no condition codes (R47). The conditions it computes are the comparisons of the branches
(R168) and of SLT and SLTU (R200), the classification flags of the D latch (R165), its write enable (R166) and the
resolved target (R169). -/

namespace Sys2Proof.Machine

/-- `s32(a) < s32(b)` (R13). -/
def lessSigned (a b : Word) : Bool := decide (a.toInt < b.toInt)

/-- `u32(a) < u32(b)` (R13). -/
def lessUnsigned (a b : Word) : Bool := decide (a.toNat < b.toNat)

/-- A comparison's result as a word: 1 or 0 (R200). -/
def boolWord (b : Bool) : Word := if b then 1#32 else 0#32

/-! ## Branch conditions (R168) -/

def condEq (a b : Word) : Bool := a == b
def condNe (a b : Word) : Bool := !(a == b)
def condLt (a b : Word) : Bool := lessSigned a b
def condGe (a b : Word) : Bool := !(lessSigned a b)
def condLtu (a b : Word) : Bool := lessUnsigned a b
def condGeu (a b : Word) : Bool := !(lessUnsigned a b)

/-! ## The D latch of each class (R164 to R169) -/

/-- ALU_R: no immediate (R123), write enable when rd is not 0. -/
def aluRegLatch (r : RawFields) (s : State) : DLatch :=
  { rawLatch r s with isAlu := true, aluReg := true, wbEnable := r.rd != 0#5 }

/-- ALU_I. -/
def aluImmLatch (r : RawFields) (imm : Word) (s : State) : DLatch :=
  { rawLatch r s with isAlu := true, imm := imm, wbEnable := r.rd != 0#5 }

/-- LOAD. -/
def loadLatch (r : RawFields) (imm : Word) (s : State) : DLatch :=
  { rawLatch r s with isLoad := true, imm := imm, wbEnable := r.rd != 0#5 }

/-- STORE: never writes back. -/
def storeLatch (r : RawFields) (imm : Word) (s : State) : DLatch :=
  { rawLatch r s with isStore := true, imm := imm }

/-- LUI. -/
def luiLatch (r : RawFields) (imm : Word) (s : State) : DLatch :=
  { rawLatch r s with isLui := true, imm := imm, wbEnable := r.rd != 0#5 }

/-- JAL: writes back under `LINK_WRITE` (R166); the target is the JAL's own address plus the offset (R169). -/
def jalLatch (r : RawFields) (imm : Word) (s : State) : DLatch :=
  { rawLatch r s with
    isJal := true, imm := imm, wbEnable := s.cfg.linkWrite && r.rd != 0#5
    branchTarget := s.f.pc + imm, branchValid := true }

/-- JALR: writes back under `LINK_WRITE`; the target is `x[rs1]` plus the immediate, bit 0 not cleared (R169, R255). -/
def jalrLatch (r : RawFields) (imm : Word) (s : State) : DLatch :=
  { rawLatch r s with
    isJalr := true, imm := imm, wbEnable := s.cfg.linkWrite && r.rd != 0#5
    branchTarget := s.readReg r.rs1 + imm, branchValid := true }

/-- BRANCH: target and valid flag when the condition holds, both 0 when it does not (R169); never writes back. -/
def branchLatch (r : RawFields) (imm : Word) (taken : Bool) (s : State) : DLatch :=
  { rawLatch r s with
    isBranch := true, imm := imm
    branchTarget := if taken then s.f.pc + imm else 0#32, branchValid := taken }

end Sys2Proof.Machine
end

