-- ==== Sys2Proof/Machine/Pipeline.lean ====
section
/-! DEFINITION. The stages after Decode, the hazard unit, and what one cycle does with a given Decode output (40_pipeline.md).
Everything before the commit reads the state as it was at the start of the cycle (R32, R180). -/

namespace Sys2Proof.Machine

/-! ## The hazard unit (R155 to R157) -/

/-- The class reads `rs1` (R157). -/
def readsRs1 : Class → Bool
  | .aluReg => true
  | .aluImm => true
  | .load => true
  | .store => true
  | .lui => false
  | .jal => false
  | .jalr => true
  | .branch => true

/-- The class reads `rs2` (R157). -/
def readsRs2 : Class → Bool
  | .aluReg => true
  | .aluImm => false
  | .load => false
  | .store => true
  | .lui => false
  | .jal => false
  | .jalr => false
  | .branch => true

/-- An instruction in the D, E or M latch will still write register `r`; never so for `x0` (R156). -/
def pendingWrite (s : State) (r : RegIdx) : Bool :=
  r != 0#5 && ((s.d.wbEnable && s.d.rd == r) || (s.e.wbEnable && s.e.rd == r) || (s.m.wbValid && s.m.rd == r))

/-- `Hazard(w, D, E, M)` (R156): a register the word reads is still to be written; never so for an unrecognised word. -/
def hazard (w : Word) (s : State) : Bool :=
  match decode w with
  | .reject _ => false
  | .instr i => (readsRs1 i.cls && pendingWrite s (rs1Of w)) || (readsRs2 i.cls && pendingWrite s (rs2Of w))

/-- The squash signal (R154). -/
def squashes (s : State) : Bool := s.d.branchValid

/-- The stall signal (R155): an instruction being squashed never stalls. -/
def stalls (s : State) : Bool :=
  s.cfg.hazardPolicy == .interlock && !squashes s && hazard s.f.instruction s

/-! ## Fetch (R158, R159) -/

/-- The address of the next fetch (R158). -/
def fetchAddr (s : State) : Word := if s.d.branchValid then s.d.branchTarget else s.f.pcPlus4

/-- Fetch's word read (R159): the next F latch, or the bus error (R160). -/
def fetchStage (s : State) : Except BusError FLatch :=
  match busRead s.cfg s.mem (fetchAddr s) .word with
  | .error k => .error k
  | .ok w => .ok { pc := fetchAddr s, pcPlus4 := fetchAddr s + 4#32, instruction := w }

/-! ## Execute (R172, R173, R200) -/

/-- The shift of funct3 101: logical, or arithmetic where `SRA_IMPLEMENTED` and funct7[5] = 1 (R200, R210, R221). -/
def shiftRight (c : Config) (arithmetic : Bool) (a : Word) (amount : Nat) : Word :=
  if c.sraImplemented && arithmetic then a.sshiftRight amount else a >>> amount

/-- `ALU(D)` (R200). -/
def alu (c : Config) (d : DLatch) : Word :=
  let a := d.rs1Value
  let b := if d.aluReg then d.rs2Value else d.imm
  let sh := (b.extractLsb' 0 5).toNat
  if d.funct3 = 0b000#3 then (if d.aluReg && d.funct7.getLsbD 5 then a - b else a + b)
  else if d.funct3 = 0b001#3 then a <<< sh
  else if d.funct3 = 0b010#3 then boolWord (lessSigned a b)
  else if d.funct3 = 0b011#3 then boolWord (lessUnsigned a b)
  else if d.funct3 = 0b100#3 then a ^^^ b
  else if d.funct3 = 0b101#3 then shiftRight c (d.funct7.getLsbD 5) a sh
  else if d.funct3 = 0b110#3 then a ||| b
  else a &&& b

/-- The result Execute computes (R172). -/
def executeResult (c : Config) (d : DLatch) : Word :=
  if d.isAlu then alu c d
  else if d.isLui then d.imm
  else if (d.isJal || d.isJalr) && c.linkWrite then d.pcPlus4
  else 0#32

/-- Execute's output (R173). -/
def executeStage (c : Config) (d : DLatch) : ELatch :=
  { result := executeResult c d, rd := d.rd, rs1Value := d.rs1Value, rs2Value := d.rs2Value, imm := d.imm
    funct3 := d.funct3, isLoad := d.isLoad, isStore := d.isStore, wbEnable := d.wbEnable }

/-! ## MemoryAccess (R174 to R177) -/

/-- A data fault before its cycle number is put to it. -/
structure PendingFault where
  kind : BusError
  access : Access
  addr : Word
  width : Width
  deriving DecidableEq, Repr

/-- What MemoryAccess hands to the commit (R179). -/
structure MemoryOut where
  m : MLatch
  write : Option StagedWrite
  fault : Option PendingFault
  deriving DecidableEq, Repr

/-- The store path (R175). -/
def storePath (c : Config) (e : ELatch) : MemoryOut :=
  match busWrite c (effectiveAddr e) (widthOf e.funct3) e.rs2Value with
  | .ok w => { m := { wbValue := 0#32, rd := e.rd, wbValid := false }, write := some w, fault := none }
  | .error k =>
    { m := { wbValue := 0#32, rd := e.rd, wbValid := false }
      write := none
      fault := some { kind := k, access := .store, addr := effectiveAddr e, width := widthOf e.funct3 } }

/-- The load path (R176). -/
def loadPath (c : Config) (mem : Memory) (e : ELatch) : MemoryOut :=
  match busRead c mem (effectiveAddr e) (widthOf e.funct3) with
  | .ok v =>
    { m := { wbValue := extendLoaded e.funct3 (widthOf e.funct3) v, rd := e.rd, wbValid := e.wbEnable }
      write := none
      fault := none }
  | .error k =>
    { m := { wbValue := 0#32, rd := e.rd, wbValid := false }
      write := none
      fault := some { kind := k, access := .load, addr := effectiveAddr e, width := widthOf e.funct3 } }

/-- MemoryAccess (R174 to R177). A latch that is both a load and a store is never decoded (log entry 7). -/
def memoryStage (c : Config) (mem : Memory) (e : ELatch) : MemoryOut :=
  if e.isStore then storePath c e
  else if e.isLoad then loadPath c mem e
  else { m := { wbValue := e.result, rd := e.rd, wbValid := e.wbEnable }, write := none, fault := none }

/-! ## WriteBack (R178) -/

/-- The register file after WriteBack. -/
def writeBack (x : Vector Word 31) (m : MLatch) : Vector Word 31 :=
  if m.wbValid then writeFile x m.rd m.wbValue else x

/-! ## One cycle, for a given Decode output (R179) -/

/-- Appends the data fault of a cycle, if there is one (R175, R176). -/
def State.logFault (s : State) : Option PendingFault → State
  | none => s
  | some p => s.raiseDataFault p.kind p.access p.addr p.width

/-- The commit, all at once, of a cycle whose Fetch and Decode outputs are given (R179). -/
def commit (f' : FLatch) (d' : DLatch) (s : State) : State :=
  let o := memoryStage s.cfg s.mem s.e
  State.logFault
    { s with
      x := writeBack s.x s.m, f := f', d := d', e := executeStage s.cfg s.d, m := o.m, mem := applyWrite s.mem o.write }
    o.fault

/-- A cycle that is not stalled, with Decode's output given: a fetch fault abandons it and halts (R160), otherwise
everything commits (R179). -/
def advance (d' : DLatch) (s : State) : State :=
  match fetchStage s with
  | .error k => s.tick.raiseFetchFault k (fetchAddr s)
  | .ok f' => commit f' d' s.tick

/-- A stalled cycle: Fetch and the F latch hold, the D latch gets a bubble, the rest proceeds (R155, R161). -/
def stallCycle (s : State) : State := commit s.f DLatch.bubble s.tick

/-- The cycle in which an instruction completes Decode with the D latch `d'` (R170, R181): what every meaning is. -/
def completeDecode (d' : DLatch) (s : State) : Result := .next (advance d' s)

end Sys2Proof.Machine
end

