-- ==== Sys2Proof/Machine/AluImm.lean ====
section
/-! DEFINITION. The nine register-immediate ALU instructions (class ALU_I, R213 to R221). A shift's 12-bit immediate field is
`funct7` above `shamt`, and the ALU uses its low 5 bits (R124, R221). -/

namespace Sys2Proof.Machine

/-- Bits [31:20] of a shift-immediate word: funct7, then shamt (R113, R124). -/
def shiftField (f7 : BitVec 7) (shamt : BitVec 5) : BitVec 12 := (f7 ++ shamt).cast rfl

/-- ADDI (R213): `x[rd] <- x[rs1] + sext_12(imm)`. -/
def execAddi (rd rs1 : RegIdx) (imm : BitVec 12) (s : State) : Result :=
  completeDecode (aluImmLatch (rawI imm rs1 0b000#3 rd) (sext12 imm) s) s

/-- SLTI (R214): `x[rd] <- 1 if s32(x[rs1]) < s32(sext_12(imm)), else 0`. -/
def execSlti (rd rs1 : RegIdx) (imm : BitVec 12) (s : State) : Result :=
  completeDecode (aluImmLatch (rawI imm rs1 0b010#3 rd) (sext12 imm) s) s

/-- SLTIU (R215): `x[rd] <- 1 if u32(x[rs1]) < u32(sext_12(imm)), else 0`. -/
def execSltiu (rd rs1 : RegIdx) (imm : BitVec 12) (s : State) : Result :=
  completeDecode (aluImmLatch (rawI imm rs1 0b011#3 rd) (sext12 imm) s) s

/-- XORI (R216): `x[rd] <- x[rs1] xor sext_12(imm)`. -/
def execXori (rd rs1 : RegIdx) (imm : BitVec 12) (s : State) : Result :=
  completeDecode (aluImmLatch (rawI imm rs1 0b100#3 rd) (sext12 imm) s) s

/-- ORI (R217): `x[rd] <- x[rs1] or sext_12(imm)`. -/
def execOri (rd rs1 : RegIdx) (imm : BitVec 12) (s : State) : Result :=
  completeDecode (aluImmLatch (rawI imm rs1 0b110#3 rd) (sext12 imm) s) s

/-- ANDI (R218): `x[rd] <- x[rs1] and sext_12(imm)`. -/
def execAndi (rd rs1 : RegIdx) (imm : BitVec 12) (s : State) : Result :=
  completeDecode (aluImmLatch (rawI imm rs1 0b111#3 rd) (sext12 imm) s) s

/-- SLLI (R219): `x[rd] <- x[rs1] << shamt`. -/
def execSlli (rd rs1 : RegIdx) (shamt : BitVec 5) (s : State) : Result :=
  completeDecode (aluImmLatch (rawR 0b0000000#7 shamt rs1 0b001#3 rd) (sext12 (shiftField 0b0000000#7 shamt)) s) s

/-- SRLI (R220): `x[rd] <- x[rs1] >>u shamt`. -/
def execSrli (rd rs1 : RegIdx) (shamt : BitVec 5) (s : State) : Result :=
  completeDecode (aluImmLatch (rawR 0b0000000#7 shamt rs1 0b101#3 rd) (sext12 (shiftField 0b0000000#7 shamt)) s) s

/-- SRAI (R221): `x[rd] <- x[rs1] >>s shamt if SRA_IMPLEMENTED, else x[rs1] >>u shamt`. -/
def execSrai (rd rs1 : RegIdx) (shamt : BitVec 5) (s : State) : Result :=
  completeDecode (aluImmLatch (rawR 0b0100000#7 shamt rs1 0b101#3 rd) (sext12 (shiftField 0b0100000#7 shamt)) s) s

end Sys2Proof.Machine
end

