-- ==== Sys2Proof/Machine/AluReg.lean ====
section
/-! DEFINITION. The ten register-register ALU instructions (class ALU_R, R203 to R212). Each meaning is the cycle in which
the instruction completes Decode: the funct3 and funct7 it puts into the D latch select the operation that `alu` (R200)
computes in the next cycle, from the operands read here (R181, R201; log entry 1). -/

namespace Sys2Proof.Machine

/-- ADD (R203): `x[rd] <- x[rs1] + x[rs2]`. -/
def execAdd (rd rs1 rs2 : RegIdx) (s : State) : Result :=
  completeDecode (aluRegLatch (rawR 0b0000000#7 rs2 rs1 0b000#3 rd) s) s

/-- SUB (R204): `x[rd] <- x[rs1] - x[rs2]`. -/
def execSub (rd rs1 rs2 : RegIdx) (s : State) : Result :=
  completeDecode (aluRegLatch (rawR 0b0100000#7 rs2 rs1 0b000#3 rd) s) s

/-- SLL (R205): `x[rd] <- x[rs1] << x[rs2][4:0]`. -/
def execSll (rd rs1 rs2 : RegIdx) (s : State) : Result :=
  completeDecode (aluRegLatch (rawR 0b0000000#7 rs2 rs1 0b001#3 rd) s) s

/-- SLT (R206): `x[rd] <- 1 if s32(x[rs1]) < s32(x[rs2]), else 0`. -/
def execSlt (rd rs1 rs2 : RegIdx) (s : State) : Result :=
  completeDecode (aluRegLatch (rawR 0b0000000#7 rs2 rs1 0b010#3 rd) s) s

/-- SLTU (R207): `x[rd] <- 1 if u32(x[rs1]) < u32(x[rs2]), else 0`. -/
def execSltu (rd rs1 rs2 : RegIdx) (s : State) : Result :=
  completeDecode (aluRegLatch (rawR 0b0000000#7 rs2 rs1 0b011#3 rd) s) s

/-- XOR (R208): `x[rd] <- x[rs1] xor x[rs2]`. -/
def execXor (rd rs1 rs2 : RegIdx) (s : State) : Result :=
  completeDecode (aluRegLatch (rawR 0b0000000#7 rs2 rs1 0b100#3 rd) s) s

/-- SRL (R209): `x[rd] <- x[rs1] >>u x[rs2][4:0]`. -/
def execSrl (rd rs1 rs2 : RegIdx) (s : State) : Result :=
  completeDecode (aluRegLatch (rawR 0b0000000#7 rs2 rs1 0b101#3 rd) s) s

/-- SRA (R210): `x[rd] <- x[rs1] >>s x[rs2][4:0] if SRA_IMPLEMENTED, else x[rs1] >>u x[rs2][4:0]`. -/
def execSra (rd rs1 rs2 : RegIdx) (s : State) : Result :=
  completeDecode (aluRegLatch (rawR 0b0100000#7 rs2 rs1 0b101#3 rd) s) s

/-- OR (R211): `x[rd] <- x[rs1] or x[rs2]`. -/
def execOr (rd rs1 rs2 : RegIdx) (s : State) : Result :=
  completeDecode (aluRegLatch (rawR 0b0000000#7 rs2 rs1 0b110#3 rd) s) s

/-- AND (R212): `x[rd] <- x[rs1] and x[rs2]`. -/
def execAnd (rd rs1 rs2 : RegIdx) (s : State) : Result :=
  completeDecode (aluRegLatch (rawR 0b0000000#7 rs2 rs1 0b111#3 rd) s) s

end Sys2Proof.Machine
end

