-- ==== Sys2Proof/Machine/Control.lean ====
section
/-! DEFINITION. The control transfers: JAL, JALR and the six branches (R250 to R263), all resolved in Decode: the D latch
presents the target, and Fetch reads it in the next cycle (R158, R169). -/

namespace Sys2Proof.Machine

/-- JAL (R254): `pc <- pc + sext_21(offset)`, and under `LINK_WRITE` `x[rd] <- pc + 4`. -/
def execJal (rd : RegIdx) (offset : BitVec 21) (s : State) : Result :=
  completeDecode (jalLatch (rawJ offset rd) (sext21 offset) s) s

/-- JALR (R255): `pc <- x[rs1] + sext_12(imm)`, bit 0 kept, and under `LINK_WRITE` `x[rd] <- pc + 4`. -/
def execJalr (rd rs1 : RegIdx) (imm : BitVec 12) (s : State) : Result :=
  completeDecode (jalrLatch (rawI imm rs1 0b000#3 rd) (sext12 imm) s) s

/-- BEQ (R256, R257): `if x[rs1] = x[rs2] then pc <- pc + sext_13(offset)`. -/
def execBeq (rs1 rs2 : RegIdx) (offset : BitVec 13) (s : State) : Result :=
  completeDecode (branchLatch (rawB offset rs2 rs1 0b000#3) (sext13 offset) (condEq (s.readReg rs1) (s.readReg rs2)) s) s

/-- BNE (R256, R258): `if x[rs1] != x[rs2] then pc <- pc + sext_13(offset)`. -/
def execBne (rs1 rs2 : RegIdx) (offset : BitVec 13) (s : State) : Result :=
  completeDecode (branchLatch (rawB offset rs2 rs1 0b001#3) (sext13 offset) (condNe (s.readReg rs1) (s.readReg rs2)) s) s

/-- BLT (R256, R259): `if s32(x[rs1]) < s32(x[rs2]) then pc <- pc + sext_13(offset)`. -/
def execBlt (rs1 rs2 : RegIdx) (offset : BitVec 13) (s : State) : Result :=
  completeDecode (branchLatch (rawB offset rs2 rs1 0b100#3) (sext13 offset) (condLt (s.readReg rs1) (s.readReg rs2)) s) s

/-- BGE (R256, R260): `if s32(x[rs1]) >= s32(x[rs2]) then pc <- pc + sext_13(offset)`. -/
def execBge (rs1 rs2 : RegIdx) (offset : BitVec 13) (s : State) : Result :=
  completeDecode (branchLatch (rawB offset rs2 rs1 0b101#3) (sext13 offset) (condGe (s.readReg rs1) (s.readReg rs2)) s) s

/-- BLTU (R256, R261): `if u32(x[rs1]) < u32(x[rs2]) then pc <- pc + sext_13(offset)`. -/
def execBltu (rs1 rs2 : RegIdx) (offset : BitVec 13) (s : State) : Result :=
  completeDecode (branchLatch (rawB offset rs2 rs1 0b110#3) (sext13 offset) (condLtu (s.readReg rs1) (s.readReg rs2)) s) s

/-- BGEU (R256, R262): `if u32(x[rs1]) >= u32(x[rs2]) then pc <- pc + sext_13(offset)`. -/
def execBgeu (rs1 rs2 : RegIdx) (offset : BitVec 13) (s : State) : Result :=
  completeDecode (branchLatch (rawB offset rs2 rs1 0b111#3) (sext13 offset) (condGeu (s.readReg rs1) (s.readReg rs2)) s) s

end Sys2Proof.Machine
end

