-- ==== Sys2Proof/Machine/LoadStore.lean ====
section
/-! DEFINITION. The five loads and three stores (R280 to R293). Decode reads base and data and puts funct3 and the immediate into
the D latch; MemoryAccess makes the access two cycles later, with the width and extension funct3 selects (R174 to R176,
R284). -/

namespace Sys2Proof.Machine

/-- LB (R282, R286): `x[rd] <-` 1 byte, sign-extended, from `x[rs1] + sext_12(imm)`; a bus error is a data fault. -/
def execLb (rd rs1 : RegIdx) (imm : BitVec 12) (s : State) : Result :=
  completeDecode (loadLatch (rawI imm rs1 0b000#3 rd) (sext12 imm) s) s

/-- LH (R282, R287): `x[rd] <-` 2 bytes, sign-extended, from `x[rs1] + sext_12(imm)`; a bus error is a data fault. -/
def execLh (rd rs1 : RegIdx) (imm : BitVec 12) (s : State) : Result :=
  completeDecode (loadLatch (rawI imm rs1 0b001#3 rd) (sext12 imm) s) s

/-- LW (R282, R288): `x[rd] <-` 4 bytes, from `x[rs1] + sext_12(imm)`; a bus error is a data fault. -/
def execLw (rd rs1 : RegIdx) (imm : BitVec 12) (s : State) : Result :=
  completeDecode (loadLatch (rawI imm rs1 0b010#3 rd) (sext12 imm) s) s

/-- LBU (R282, R289): `x[rd] <-` 1 byte, zero-extended, from `x[rs1] + sext_12(imm)`; a bus error is a data fault. -/
def execLbu (rd rs1 : RegIdx) (imm : BitVec 12) (s : State) : Result :=
  completeDecode (loadLatch (rawI imm rs1 0b100#3 rd) (sext12 imm) s) s

/-- LHU (R282, R290): `x[rd] <-` 2 bytes, zero-extended, from `x[rs1] + sext_12(imm)`; a bus error is a data fault. -/
def execLhu (rd rs1 : RegIdx) (imm : BitVec 12) (s : State) : Result :=
  completeDecode (loadLatch (rawI imm rs1 0b101#3 rd) (sext12 imm) s) s

/-- SB (R283, R291): writes the low byte of `x[rs2]` at `x[rs1] + sext_12(imm)`; a bus error is a data fault. -/
def execSb (rs2 rs1 : RegIdx) (imm : BitVec 12) (s : State) : Result :=
  completeDecode (storeLatch (rawS imm rs2 rs1 0b000#3) (sext12 imm) s) s

/-- SH (R283, R292): writes the low 2 bytes of `x[rs2]` at `x[rs1] + sext_12(imm)`; a bus error is a data fault. -/
def execSh (rs2 rs1 : RegIdx) (imm : BitVec 12) (s : State) : Result :=
  completeDecode (storeLatch (rawS imm rs2 rs1 0b001#3) (sext12 imm) s) s

/-- SW (R283, R293): writes the 4 bytes of `x[rs2]` at `x[rs1] + sext_12(imm)`; a bus error is a data fault. -/
def execSw (rs2 rs1 : RegIdx) (imm : BitVec 12) (s : State) : Result :=
  completeDecode (storeLatch (rawS imm rs2 rs1 0b010#3) (sext12 imm) s) s

end Sys2Proof.Machine
end

