-- ==== Sys2Proof/Machine/UpperImm.lean ====
section
/-! DEFINITION. LUI (R240, R241), the one upper-immediate instruction. -/

namespace Sys2Proof.Machine

/-- LUI (R240): `x[rd] <- (imm20, 0x000)`, carried through Execute as the D latch's immediate (R241). -/
def execLui (rd : RegIdx) (imm20 : BitVec 20) (s : State) : Result :=
  completeDecode (luiLatch (rawU imm20 rd) (upper20 imm20) s) s

end Sys2Proof.Machine
end

