-- ==== Sys2Proof/Machine/Cycle.lean ====
section
/-! DEFINITION. The cycle function `Cycle(s, freeze)` (R179), and the placing of one fetched instruction that
`State.withFetchWord` stands for. -/

namespace Sys2Proof.Machine

/-- A running cycle, that is one that is neither halted nor frozen (R179): the word in the F latch is squashed, passes as
a bubble if it is unrecognised (R310), stalls, or is an instruction that completes Decode. -/
def runCycle (s : State) : Result :=
  if squashes s then .next (advance DLatch.bubble s)
  else
    match decode s.f.instruction with
    | .reject _ => .next (advance DLatch.bubble s)
    | .instr i => if stalls s then .next (stallCycle s) else exec i s

/-- `Cycle(s, freeze)` (R152, R153, R179). -/
def cycle (freeze : Bool) (s : State) : Result :=
  if s.halted then .next s
  else if freeze then .next s.tick
  else runCycle s

/-- The core `s` under the configuration `c`, with no input of the host given yet. -/
def CoreState.under (c : Config) (s : CoreState) : State := { s with cfg := c, freezeIn := [] }

/-- The state of the core that an operation answers; where it answers none, the one it began in. -/
def coreAfter : Result → CoreState → CoreState
  | .next t, _ => t.toCoreState
  | .fault _, s => s
  | .refused _, s => s

/-- R179's step as the spec types it: a function of the configuration, the input `freeze` and the state of R54. -/
def cycleOf (c : Config) (freeze : Bool) (s : CoreState) : CoreState := coreAfter (cycle freeze (s.under c)) s

/-- The `freeze` input of the next `Cycle` call: false unless the host asserts it (R152, R357). -/
def nextFreeze (s : State) : Bool := s.freezeIn.headD false

/-- The host's inputs after one `Cycle` call. -/
def State.dropFreeze (s : State) : State := { s with freezeIn := s.freezeIn.tail }

/-- The bytes of a word at a word-aligned mapped address replaced; any other address holds nothing to replace. -/
def placeWord (c : Config) (m : Memory) (a w : Word) : Memory :=
  if aligned a .word && deviceAt c a != .unmapped then Memory.writeBytes m a.toNat (bytesOfWord w) else m

/-- The state with the word `w` stored at the next fetch address, already fetched from there, and nothing in the way of its
completing Decode in the very next cycle: no halt, no frozen cycle, no older instruction in the latches (log entry 5). -/
def placeFetched (s : State) (w : Word) : State :=
  { s with
    f := { pc := fetchAddr s, pcPlus4 := fetchAddr s + 4#32, instruction := w }
    d := DLatch.bubble, e := ELatch.bubble, m := MLatch.bubble
    mem := placeWord s.cfg s.mem (fetchAddr s) w
    halted := false, fetchFault := none, freezeIn := [] }

end Sys2Proof.Machine
end

