-- ==== Sys2Proof/Machine/Step.lean ====
section
/-! DEFINITION. One step of the machine: one call of `Cycle` with the host's next `freeze` input (R1, R179). -/

namespace Sys2Proof.Machine

/-- One `Cycle` call. A halted machine is left as it is (R153). -/
def step (s : State) : Host.Outcome State Fault Refusal :=
  if s.halted then .next s else cycle (nextFreeze s) s.dropFreeze

/-- The state whose very next step runs the instruction of the opcode table's bits `w` (log entry 5). -/
def State.withFetchWord (s : State) (nbits w : Nat) : State := placeFetched s (tableWord nbits w)

end Sys2Proof.Machine
end

