-- ==== Sys2Proof/Machine/HostInterface.lean ====
section
/-! DEFINITION. What the host can do besides stepping (R350 to R357): construct, load the ROM, set registers and RAM before the
first `Cycle` call, give the `freeze` input, and read. -/

namespace Sys2Proof.Machine

/-- No `Cycle` call has been made: every call of a machine that is not halted counts (R52; log entry 9). -/
def beforeFirstCycle (s : State) : Bool := s.cycleCount == 0

/-- `System.new()` (R350): a configuration that breaks R73 is refused (log entry 8). -/
def State.construct (c : Config) : Result :=
  if configOk c then .next (State.initial c) else .refused .badConfiguration

/-- The bytes of a list of words, in the order of their addresses (R352, R80). -/
def imageBytes (ws : List Word) : List Byte := ws.flatMap bytesOfWord

/-- `rom.load(words)` (R352). -/
def romLoad (ws : List Word) (s : State) : Result :=
  if !beforeFirstCycle s then .refused .afterFirstCycle
  else if s.cfg.romSize / 4 < ws.length then .refused .romImageTooLong
  else .next { s with mem := Memory.writeBytes s.mem s.cfg.romBase.toNat (imageBytes ws) }

/-- `setReg(i, v)` (R353); a write to `x0` is ignored (R38). -/
def setReg (i : RegIdx) (v : Word) (s : State) : Result :=
  if !beforeFirstCycle s then .refused .afterFirstCycle
  else .next { s with x := writeFile s.x i v }

/-- The host's bus `write` (R354): applied at once, an error returned and not logged. -/
def hostWrite (a : Word) (n : Width) (v : Word) (s : State) : Result :=
  if !beforeFirstCycle s then .refused .afterFirstCycle
  else
    match busWrite s.cfg a n v with
    | .error k => .fault (.hostBus k)
    | .ok w => .next { s with mem := Memory.writeBytes s.mem w.addr w.bytes }

/-- The host's bus read (R94, R356): it changes nothing. -/
def hostRead (a : Word) (n : Width) (s : State) : Except BusError Word := busRead s.cfg s.mem a n

end Sys2Proof.Machine
end

