-- ==== Sys2Proof/Machine/Sequential.lean ====
section
/-! DEFINITION. The architectural view that the spec's instruction rules are written in (R181): registers, pc, memory and the
faults logged, with every older instruction finished, and each instruction's rule of 41_integer_alu.md to
44_load_store.md as its pseudocode over that view. No step calls this file: the statements compare the pipeline with it. -/

namespace Sys2Proof.Machine

/-- What sequential execution sees. A fault stands without its cycle number. -/
structure Arch where
  x : Vector Word 31
  /-- The address of the next instruction in program order. -/
  pc : Word
  mem : Memory
  faults : List PendingFault
  deriving DecidableEq, Repr

/-- The state once the instructions in the D, E and M latches have finished and no other has entered: three cycles in which
Fetch holds and Decode gives bubbles. -/
def State.drain (s : State) : State := stallCycle (stallCycle (stallCycle s))

/-- The address of the next word that Decode does not squash. -/
def nextPc (s : State) : Word := if s.d.branchValid then s.d.branchTarget else s.f.pc

/-- A data fault's record without its cycle number. -/
def DataFaultRecord.timeless (r : DataFaultRecord) : PendingFault :=
  { kind := r.kind, access := r.access, addr := r.addr, width := r.width }

/-- The architectural view of a state of the pipeline. -/
def State.arch (s : State) : Arch :=
  { x := s.drain.x, pc := nextPc s, mem := s.drain.mem, faults := s.drain.dataFaults.map DataFaultRecord.timeless }

/-! ## The rules' pseudocode -/

/-- `x[i]`. -/
def Arch.reg (a : Arch) (i : RegIdx) : Word := readFile a.x i

/-- An instruction that writes one register and falls through. -/
def Arch.write (a : Arch) (rd : RegIdx) (v : Word) : Arch := { a with x := writeFile a.x rd v, pc := a.pc + 4#32 }

/-- A jump to `target` that links into `rd` under `LINK_WRITE` (R253). -/
def Arch.jump (c : Config) (a : Arch) (rd : RegIdx) (target : Word) : Arch :=
  { a with x := if c.linkWrite then writeFile a.x rd (a.pc + 4#32) else a.x, pc := target }

/-- A branch to `pc + sext_13(offset)` if the condition holds (R256). -/
def Arch.branch (a : Arch) (taken : Bool) (offset : BitVec 13) : Arch :=
  { a with pc := if taken then a.pc + sext13 offset else a.pc + 4#32 }

/-- A load of width `n` (R282): on success `x[rd]` gets the extended value, on an error the fault is logged. -/
def Arch.load (c : Config) (a : Arch) (rd : RegIdx) (addr : Word) (n : Width) (ext : Word → Word) : Arch :=
  match busRead c a.mem addr n with
  | .ok v => a.write rd (ext v)
  | .error k =>
    { a with pc := a.pc + 4#32, faults := a.faults ++ [{ kind := k, access := .load, addr := addr, width := n }] }

/-- A store of width `n` (R283): on success the bytes are written, on an error the fault is logged. -/
def Arch.store (c : Config) (a : Arch) (addr : Word) (n : Width) (v : Word) : Arch :=
  match busWrite c addr n v with
  | .ok w => { a with pc := a.pc + 4#32, mem := Memory.writeBytes a.mem w.addr w.bytes }
  | .error k =>
    { a with pc := a.pc + 4#32, faults := a.faults ++ [{ kind := k, access := .store, addr := addr, width := n }] }

/-- The shift amount of a register shift: the low 5 bits (R205, R209, R210). -/
def low5 (v : Word) : Nat := (v.extractLsb' 0 5).toNat

/-- The right shift of SRA and SRAI: arithmetic under `SRA_IMPLEMENTED`, else logical (R210, R221). -/
def sraValue (c : Config) (v : Word) (amount : Nat) : Word :=
  if c.sraImplemented then v.sshiftRight amount else v >>> amount

/-- Each instruction's rule, over the architectural view. -/
def isaExec (c : Config) (i : Instr) (a : Arch) : Arch :=
  match i with
  | .add rd rs1 rs2 => a.write rd (a.reg rs1 + a.reg rs2)
  | .sub rd rs1 rs2 => a.write rd (a.reg rs1 - a.reg rs2)
  | .sll rd rs1 rs2 => a.write rd (a.reg rs1 <<< low5 (a.reg rs2))
  | .slt rd rs1 rs2 => a.write rd (if (a.reg rs1).toInt < (a.reg rs2).toInt then 1#32 else 0#32)
  | .sltu rd rs1 rs2 => a.write rd (if (a.reg rs1).toNat < (a.reg rs2).toNat then 1#32 else 0#32)
  | .xor rd rs1 rs2 => a.write rd (a.reg rs1 ^^^ a.reg rs2)
  | .srl rd rs1 rs2 => a.write rd (a.reg rs1 >>> low5 (a.reg rs2))
  | .sra rd rs1 rs2 => a.write rd (sraValue c (a.reg rs1) (low5 (a.reg rs2)))
  | .or rd rs1 rs2 => a.write rd (a.reg rs1 ||| a.reg rs2)
  | .and rd rs1 rs2 => a.write rd (a.reg rs1 &&& a.reg rs2)
  | .addi rd rs1 imm => a.write rd (a.reg rs1 + sext12 imm)
  | .slti rd rs1 imm => a.write rd (if (a.reg rs1).toInt < (sext12 imm).toInt then 1#32 else 0#32)
  | .sltiu rd rs1 imm => a.write rd (if (a.reg rs1).toNat < (sext12 imm).toNat then 1#32 else 0#32)
  | .xori rd rs1 imm => a.write rd (a.reg rs1 ^^^ sext12 imm)
  | .ori rd rs1 imm => a.write rd (a.reg rs1 ||| sext12 imm)
  | .andi rd rs1 imm => a.write rd (a.reg rs1 &&& sext12 imm)
  | .slli rd rs1 shamt => a.write rd (a.reg rs1 <<< shamt.toNat)
  | .srli rd rs1 shamt => a.write rd (a.reg rs1 >>> shamt.toNat)
  | .srai rd rs1 shamt => a.write rd (sraValue c (a.reg rs1) shamt.toNat)
  | .lb rd rs1 imm => a.load c rd (a.reg rs1 + sext12 imm) .byte (fun v => (v.setWidth 8).signExtend 32)
  | .lh rd rs1 imm => a.load c rd (a.reg rs1 + sext12 imm) .half (fun v => (v.setWidth 16).signExtend 32)
  | .lw rd rs1 imm => a.load c rd (a.reg rs1 + sext12 imm) .word (fun v => v)
  | .lbu rd rs1 imm => a.load c rd (a.reg rs1 + sext12 imm) .byte (fun v => (v.setWidth 8).setWidth 32)
  | .lhu rd rs1 imm => a.load c rd (a.reg rs1 + sext12 imm) .half (fun v => (v.setWidth 16).setWidth 32)
  | .sb rs2 rs1 imm => a.store c (a.reg rs1 + sext12 imm) .byte (a.reg rs2)
  | .sh rs2 rs1 imm => a.store c (a.reg rs1 + sext12 imm) .half (a.reg rs2)
  | .sw rs2 rs1 imm => a.store c (a.reg rs1 + sext12 imm) .word (a.reg rs2)
  | .lui rd imm20 => a.write rd (upper20 imm20)
  | .jal rd offset => a.jump c rd (a.pc + sext21 offset)
  | .jalr rd rs1 imm => a.jump c rd (a.reg rs1 + sext12 imm)
  | .beq rs1 rs2 offset => a.branch (decide (a.reg rs1 = a.reg rs2)) offset
  | .bne rs1 rs2 offset => a.branch (decide (a.reg rs1 ≠ a.reg rs2)) offset
  | .blt rs1 rs2 offset => a.branch (decide ((a.reg rs1).toInt < (a.reg rs2).toInt)) offset
  | .bge rs1 rs2 offset => a.branch (decide ((a.reg rs2).toInt ≤ (a.reg rs1).toInt)) offset
  | .bltu rs1 rs2 offset => a.branch (decide ((a.reg rs1).toNat < (a.reg rs2).toNat)) offset
  | .bgeu rs1 rs2 offset => a.branch (decide ((a.reg rs2).toNat ≤ (a.reg rs1).toNat)) offset

end Sys2Proof.Machine
end

