-- ==== Sys2Proof/Safety.lean ====
section
/-! DEFINITION. The terms claims are stated in: what every state of a run satisfies (`State.Inv`), what a safe run is, and the
conditions under which an instruction completes Decode. -/

namespace Sys2Proof.Machine

/-! ## Legal contents of each part of the state -/

/-- funct3 of a recognised load (R127, R280). -/
def loadFunct3 (f : BitVec 3) : Prop := f = 0b000#3 ∨ f = 0b001#3 ∨ f = 0b010#3 ∨ f = 0b100#3 ∨ f = 0b101#3

/-- funct3 of a recognised store (R127, R280). -/
def storeFunct3 (f : BitVec 3) : Prop := f = 0b000#3 ∨ f = 0b001#3 ∨ f = 0b010#3

/-- How many of the seven class flags are set (R165). -/
def DLatch.classFlags (d : DLatch) : Nat :=
  d.isAlu.toNat + d.isLoad.toNat + d.isStore.toNat + d.isLui.toNat + d.isJal.toNat + d.isJalr.toNat + d.isBranch.toNat

/-- The F latch after a fetch (R41, R42, R159), or as constructed (R43). -/
structure FLatch.Legal (c : Config) (f : FLatch) : Prop where
  pc_aligned : aligned f.pc .word = true
  pc_mapped : deviceAt c f.pc ≠ .unmapped
  next_pc : f.pcPlus4 = f.pc + 4#32 ∨ (f.pcPlus4 = f.pc ∧ f.instruction = 0#32)

/-- The D latch holds a bubble (R171) or what Decode makes of a recognised word (R165, R166, R169). -/
structure DLatch.Legal (d : DLatch) : Prop where
  one_class : d = DLatch.bubble ∨ d.classFlags = 1
  alu_form : d.aluReg = true → d.isAlu = true
  load_form : d.isLoad = true → loadFunct3 d.funct3
  store_form : d.isStore = true → storeFunct3 d.funct3
  writes_back : d.wbEnable = true → d.rd ≠ 0#5 ∧ d.isStore = false ∧ d.isBranch = false
  transfers : d.branchValid = true → d.isJal = true ∨ d.isJalr = true ∨ d.isBranch = true
  no_target : d.branchValid = false → d.branchTarget = 0#32

/-- The E latch (R173). -/
structure ELatch.Legal (e : ELatch) : Prop where
  one_access : e.isLoad = true → e.isStore = false
  load_form : e.isLoad = true → loadFunct3 e.funct3
  store_form : e.isStore = true → storeFunct3 e.funct3 ∧ e.wbEnable = false
  writes_back : e.wbEnable = true → e.rd ≠ 0#5

/-- The M latch (R178). -/
structure MLatch.Legal (m : MLatch) : Prop where
  writes_back : m.wbValid = true → m.rd ≠ 0#5

/-- Memory is in its canonical form and lists bytes of ROM and RAM only (R53, R74). -/
structure MemoryLegal (c : Config) (m : Memory) : Prop where
  canonical : Memory.wf m
  mapped : ∀ cell ∈ m, ∃ a : Word, a.toNat = cell.1 ∧ deviceAt c a ≠ .unmapped

/-- A record states a fault that R75, R74 or R78 gives, with the priority of R76. -/
def DataFaultRecord.Real (c : Config) (r : DataFaultRecord) : Prop :=
  match r.kind with
  | .misalignedAccess => aligned r.addr r.width = false
  | .unmappedAddress => aligned r.addr r.width = true ∧ deviceAt c r.addr = .unmapped
  | .readOnlyViolation => aligned r.addr r.width = true ∧ deviceAt c r.addr = .rom ∧ r.access = .store

/-- A fetch fault's record states a fault of a word read; it is never `ReadOnlyViolation` (R50, R322). -/
def FetchFaultRecord.Real (c : Config) (r : FetchFaultRecord) : Prop :=
  match r.kind with
  | .misalignedAccess => aligned r.addr .word = false
  | .unmappedAddress => aligned r.addr .word = true ∧ deviceAt c r.addr = .unmapped
  | .readOnlyViolation => False

/-- The data-fault log: real faults, at most one a cycle, oldest first (R51, R332). -/
structure LogLegal (c : Config) (count : Nat) (log : List DataFaultRecord) : Prop where
  real : ∀ r ∈ log, r.Real c
  rising : log.Pairwise (fun p q => p.cycle < q.cycle)
  past : ∀ r ∈ log, r.cycle ≤ count

/-- The halt flag and the fetch-fault record go together, and the count stands at the faulting cycle (R49, R50, R328). -/
structure HaltLegal (s : State) : Prop where
  together : s.halted = s.fetchFault.isSome
  real : ∀ r ∈ s.fetchFault, r.Real s.cfg ∧ r.cycle = s.cycleCount

/-- What holds of every state of a run. -/
structure State.Inv (s : State) : Prop where
  config : configOk s.cfg = true
  latchF : s.f.Legal s.cfg
  latchD : s.d.Legal
  latchE : s.e.Legal
  latchM : s.m.Legal
  memory : MemoryLegal s.cfg s.mem
  log : LogLegal s.cfg s.cycleCount s.dataFaults
  halt : HaltLegal s

/-- A safe state: the machine is not halted and no access has failed (I11). -/
def State.safe (s : State) : Bool := !s.halted && s.dataFaults.isEmpty

/-! ## Conditions on a state -/

/-- The machine is neither halted nor about to be frozen: the next `Cycle` call runs a cycle (R152, R153). -/
def State.runs (s : State) : Bool := !s.halted && !nextFreeze s

/-- The next fetch succeeds, with the word `w` (R159). -/
def State.fetches (s : State) (w : Word) : Prop := busRead s.cfg s.mem (fetchAddr s) .word = .ok w

/-! ## What an instruction changes, over the architectural view

`s` is the state at the start of the cycle in which the instruction completes Decode, `t` the state after that cycle. The
architectural view (`State.arch`) has the older instructions finished in `s`, and the instruction too in `t`. -/

/-- Every register but those named keeps its value; an index 0 is never written (R36). -/
def RegistersKept (s t : State) (but : RegIdx → Prop) : Prop := ∀ r, ¬ but r → t.arch.reg r = s.arch.reg r

/-- Every byte of memory outside `[lo, lo + n)` reads as before; `n = 0` says all of memory does. -/
def BytesKept (s t : State) (lo n : Nat) : Prop :=
  ∀ a, ¬ (lo ≤ a ∧ a < lo + n) → Memory.readByte t.arch.mem a = Memory.readByte s.arch.mem a

/-- What no instruction that completes Decode without a fetch fault changes: configuration, halt status and inputs; the
cycle is counted (R52). -/
structure CycleKept (s t : State) : Prop where
  cfg : t.cfg = s.cfg
  halted : t.halted = s.halted
  fetchFault : t.fetchFault = s.fetchFault
  freezeIn : t.freezeIn = s.freezeIn
  counted : t.cycleCount = s.cycleCount + 1

/-- The instruction writes `v` into `rd` (discarded for `rd = 0`), and nothing else but the next pc. -/
structure WritesRegister (s t : State) (rd : RegIdx) (v nextAddr : Word) : Prop where
  result : t.arch.reg rd = if rd = 0#5 then 0#32 else v
  registers : RegistersKept s t (fun r => r = rd)
  pc : t.arch.pc = nextAddr
  memory : BytesKept s t 0 0
  faults : t.arch.faults = s.arch.faults
  rest : CycleKept s t

/-- The instruction changes nothing but the next pc. -/
structure WritesNothing (s t : State) (nextAddr : Word) : Prop where
  registers : RegistersKept s t (fun _ => False)
  pc : t.arch.pc = nextAddr
  memory : BytesKept s t 0 0
  faults : t.arch.faults = s.arch.faults
  rest : CycleKept s t

/-- The instruction stores the low `n` bytes of `v` at `addr`, little-endian, and changes nothing else but the next pc. -/
structure WritesMemory (s t : State) (addr : Word) (n : Width) (v nextAddr : Word) : Prop where
  stored : ∀ k, k < n.bytes → Memory.readByte t.arch.mem (addr.toNat + k) = v.extractLsb' (8 * k) 8
  memory : BytesKept s t addr.toNat n.bytes
  registers : RegistersKept s t (fun _ => False)
  pc : t.arch.pc = nextAddr
  faults : t.arch.faults = s.arch.faults
  rest : CycleKept s t

/-- The instruction's access fails: the fault is logged, and nothing else changes but the next pc (R324 to R326). -/
structure LogsFault (s t : State) (kind : BusError) (access : Access) (addr : Word) (n : Width) (nextAddr : Word) : Prop where
  faults : t.arch.faults = s.arch.faults ++ [{ kind := kind, access := access, addr := addr, width := n }]
  registers : RegistersKept s t (fun _ => False)
  pc : t.arch.pc = nextAddr
  memory : BytesKept s t 0 0
  rest : CycleKept s t

/-- The state with every cycle number taken out (R52, R323). -/
def State.timeless (s : State) : State :=
  { s with
    cycleCount := 0
    fetchFault := s.fetchFault.map (fun r => { r with cycle := 0 })
    dataFaults := s.dataFaults.map (fun r => { r with cycle := 0 }) }

/-- `k` steps of the machine. -/
def runFor (k : Nat) (s : State) : Result := Sys2Proof.core.run k s

end Sys2Proof.Machine
end

