-- ==== Sys2Proof/Certificates/Slice0/Obligations.lean ====
section
/-! DEFINITION. The statements for the provers. `s` is the state a cycle starts in and `t` the state it leaves. -/

open Sys2Proof Sys2Proof.Machine

/-! ## Construction and configuration -/

/-- R55, R40: construction with a configuration of the spec leaves every field at the value its rule gives. -/
def Obligations.ConstructionLeavesTheResetState : Prop :=
  ∀ c : Config, configOk c = true → ∃ s, State.construct c = .next s ∧ s.cfg = c ∧
    (∀ i, s.readReg i = 0#32) ∧ s.f = { pc := c.romBase, pcPlus4 := c.romBase, instruction := 0#32 } ∧
    s.d = DLatch.bubble ∧ s.e = ELatch.bubble ∧ s.m = MLatch.bubble ∧ (∀ a, Memory.readByte s.mem a = 0#8) ∧
    s.halted = false ∧ s.fetchFault = none ∧ s.dataFaults = [] ∧ s.cycleCount = 0

/-- R73, R10: the configurations of the spec are exactly those with legal, pairwise disjoint regions (R73) and a RAM region
(R10); the others are refused, at construction, which is the model's choice of the place (log entry 8); and an aligned access lies wholly inside or wholly outside each region. -/
def Obligations.ConfigurationConstraints : Prop :=
  ∀ c : Config,
    (configOk c = true ↔
      (∀ r ∈ romRegion c :: c.ramRegions,
        r.base.toNat % 4 = 0 ∧ r.size % 4 = 0 ∧ 0 < r.size ∧ r.base.toNat + r.size ≤ 2 ^ 32) ∧
      (romRegion c :: c.ramRegions).Pairwise (fun r q => ∀ a, ¬ (inRegion r a = true ∧ inRegion q a = true)) ∧
      c.ramRegions ≠ []) ∧
    (configOk c = false → State.construct c = .refused .badConfiguration) ∧
    (configOk c = true → ∀ r ∈ romRegion c :: c.ramRegions, ∀ (a : Word) (n : Width), aligned a n = true →
      ∀ k, k < n.bytes → inRegion r (a + BitVec.ofNat 32 k) = inRegion r a)

/-- R74: an address routes to ROM, to RAM or nowhere by the regions' ranges, and to at most one device. -/
def Obligations.AddressDecoding : Prop :=
  ∀ c : Config, configOk c = true → ∀ a : Word,
    (deviceAt c a = .rom ↔ c.romBase.toNat ≤ a.toNat ∧ a.toNat < c.romBase.toNat + c.romSize) ∧
    (deviceAt c a = .ram ↔ ∃ r ∈ c.ramRegions, r.base.toNat ≤ a.toNat ∧ a.toNat < r.base.toNat + r.size) ∧
    (deviceAt c a = .unmapped ↔ ∀ r ∈ romRegion c :: c.ramRegions, inRegion r a = false) ∧
    (∀ r ∈ romRegion c :: c.ramRegions, ∀ q ∈ romRegion c :: c.ramRegions,
      inRegion r a = true → inRegion q a = true → r = q)

/-! ## The bus -/

/-- R75, R76: alignment, and which one error a read or a write of the bus reports. -/
def Obligations.BusErrorPriority : Prop :=
  ∀ (c : Config) (m : Memory) (a : Word) (n : Width) (v : Word),
    (aligned a n = true ↔ a.toNat % n.bytes = 0) ∧
    (busRead c m a n = .error .misalignedAccess ↔ a.toNat % n.bytes ≠ 0) ∧
    (busRead c m a n = .error .unmappedAddress ↔ a.toNat % n.bytes = 0 ∧ deviceAt c a = .unmapped) ∧
    busRead c m a n ≠ .error .readOnlyViolation ∧
    (busWrite c a n v = .error .misalignedAccess ↔ a.toNat % n.bytes ≠ 0) ∧
    (busWrite c a n v = .error .unmappedAddress ↔ a.toNat % n.bytes = 0 ∧ deviceAt c a = .unmapped) ∧
    (busWrite c a n v = .error .readOnlyViolation ↔ a.toNat % n.bytes = 0 ∧ deviceAt c a = .rom)

/-- R79: a read returns the n bytes at a..a+n-1, little-endian, with zero above; a write changes exactly those bytes. -/
def Obligations.BusMovesExactlyItsBytes : Prop :=
  ∀ (c : Config) (m : Memory) (a : Word) (n : Width) (v : Word), Memory.wf m →
    (∀ r, busRead c m a n = .ok r → ∀ k, k < 4 →
      r.extractLsb' (8 * k) 8 = if k < n.bytes then Memory.readByte m (a.toNat + k) else 0#8) ∧
    (∀ w, busWrite c a n v = .ok w → ∀ b,
      Memory.readByte (Memory.writeBytes m w.addr w.bytes) b =
        if a.toNat ≤ b ∧ b < a.toNat + n.bytes then v.extractLsb' (8 * (b - a.toNat)) 8 else Memory.readByte m b)

/-- R81, R285: after a store, a load of the same width returns the stored value's low bytes, and after a word store each
byte and half-word of it reads back as the part of the value at its place. -/
def Obligations.StoreThenLoadReturnsTheValue : Prop :=
  ∀ (c : Config) (m : Memory) (a : Word) (n : Width) (v : Word) (w : StagedWrite),
    configOk c = true → Memory.wf m → busWrite c a n v = .ok w →
    busRead c (Memory.writeBytes m w.addr w.bytes) a n = .ok (v.extractLsb' 0 (8 * n.bytes) |>.setWidth 32) ∧
    (n = .word →
      (∀ k, k < 4 → busRead c (Memory.writeBytes m w.addr w.bytes) (a + BitVec.ofNat 32 k) .byte =
        .ok ((v.extractLsb' (8 * k) 8).setWidth 32)) ∧
      (∀ j, j < 2 → busRead c (Memory.writeBytes m w.addr w.bytes) (a + BitVec.ofNat 32 (2 * j)) .half =
        .ok ((v.extractLsb' (16 * j) 16).setWidth 32)))

/-! ## Registers -/

/-- R35, R36: `x0` reads 0 and discards writes; any other register reads back what was last written to it, and no write
moves another register. -/
def Obligations.RegisterZeroAndRegisterFile : Prop :=
  (∀ s : State, s.readReg 0#5 = 0#32) ∧
  ∀ (x : Vector Word 31) (i j : RegIdx) (v : Word),
    writeFile x 0#5 v = x ∧
    (i ≠ 0#5 → readFile (writeFile x i v) j = if j = i then v else readFile x j)

/-- R178: a step changes a register only by writing back the M latch: if `wbValid` and `rd` is not 0, `x[rd]` gets `wbValue`;
in a halted, a frozen or an abandoned cycle not even that. -/
def Obligations.WriteBackIsTheOnlyRegisterWrite : Prop :=
  ∀ s t : State, step s = .next t → ∀ r : RegIdx,
    t.readReg r =
      if s.runs = true ∧ t.halted = false ∧ s.m.wbValid = true ∧ s.m.rd ≠ 0#5 ∧ r = s.m.rd then s.m.wbValue
      else s.readReg r

/-! ## The stages -/

/-- R174 to R177: what MemoryAccess makes of the E latch in a cycle that commits, the address being `rs1Value + imm` and the width
1, 2 or 4 bytes by funct3[1:0]. That the store clause also holds of a latch that is both a load and a store, which no run
reaches, is the model's choice (log entry 7). -/
def Obligations.MemoryAccessOfTheELatch : Prop :=
  ∀ s t : State, s.runs = true → step s = .next t → t.halted = false →
    (∀ n : Width, (s.e.funct3.extractLsb' 0 2, n) ∈ [(0b00#2, Width.byte), (0b01#2, .half), (0b10#2, .word)] →
      let a := s.e.rs1Value + s.e.imm
      (s.e.isStore = true →
        t.m = { wbValue := 0#32, rd := s.e.rd, wbValid := false } ∧
        (∀ w, busWrite s.cfg a n s.e.rs2Value = .ok w →
          t.mem = Memory.writeBytes s.mem w.addr w.bytes ∧ t.dataFaults = s.dataFaults) ∧
        (∀ k, busWrite s.cfg a n s.e.rs2Value = .error k →
          t.mem = s.mem ∧
          t.dataFaults = s.dataFaults ++
            [{ cycle := s.cycleCount + 1, kind := k, access := .store, addr := a, width := n }])) ∧
      (s.e.isStore = false → s.e.isLoad = true →
        t.mem = s.mem ∧
        (∀ v, busRead s.cfg s.mem a n = .ok v →
          t.dataFaults = s.dataFaults ∧ t.m.rd = s.e.rd ∧ t.m.wbValid = s.e.wbEnable ∧
          t.m.wbValue =
            if s.e.funct3.getLsbD 2 = true then (v.setWidth (8 * n.bytes)).setWidth 32
            else (v.setWidth (8 * n.bytes)).signExtend 32) ∧
        (∀ k, busRead s.cfg s.mem a n = .error k →
          t.m = { wbValue := 0#32, rd := s.e.rd, wbValid := false } ∧
          t.dataFaults = s.dataFaults ++
            [{ cycle := s.cycleCount + 1, kind := k, access := .load, addr := a, width := n }]))) ∧
    (s.e.isStore = false → s.e.isLoad = false →
      t.m = { wbValue := s.e.result, rd := s.e.rd, wbValid := s.e.wbEnable } ∧
      t.mem = s.mem ∧ t.dataFaults = s.dataFaults)

/-- R172, R173, R200: what Execute makes of the D latch in a cycle that commits. -/
def Obligations.ExecuteOfTheDLatch : Prop :=
  ∀ s t : State, s.runs = true → step s = .next t → t.halted = false →
    let a := s.d.rs1Value
    let b := if s.d.aluReg = true then s.d.rs2Value else s.d.imm
    let sh := b.toNat % 32
    (t.e.rd = s.d.rd ∧ t.e.rs1Value = s.d.rs1Value ∧ t.e.rs2Value = s.d.rs2Value ∧ t.e.imm = s.d.imm ∧
      t.e.funct3 = s.d.funct3 ∧ t.e.isLoad = s.d.isLoad ∧ t.e.isStore = s.d.isStore ∧ t.e.wbEnable = s.d.wbEnable) ∧
    (s.d.isAlu = true →
      (s.d.funct3 = 0b000#3 → s.d.aluReg = true → s.d.funct7.getLsbD 5 = true → t.e.result = a - b) ∧
      (s.d.funct3 = 0b000#3 → ¬ (s.d.aluReg = true ∧ s.d.funct7.getLsbD 5 = true) → t.e.result = a + b) ∧
      (s.d.funct3 = 0b001#3 → t.e.result = a <<< sh) ∧
      (s.d.funct3 = 0b010#3 → t.e.result = if a.toInt < b.toInt then 1#32 else 0#32) ∧
      (s.d.funct3 = 0b011#3 → t.e.result = if a.toNat < b.toNat then 1#32 else 0#32) ∧
      (s.d.funct3 = 0b100#3 → t.e.result = a ^^^ b) ∧
      (s.d.funct3 = 0b101#3 → s.cfg.sraImplemented = true → s.d.funct7.getLsbD 5 = true →
        t.e.result = a.sshiftRight sh) ∧
      (s.d.funct3 = 0b101#3 → ¬ (s.cfg.sraImplemented = true ∧ s.d.funct7.getLsbD 5 = true) →
        t.e.result = a >>> sh) ∧
      (s.d.funct3 = 0b110#3 → t.e.result = a ||| b) ∧
      (s.d.funct3 = 0b111#3 → t.e.result = a &&& b)) ∧
    (s.d.isAlu = false → s.d.isLui = true → t.e.result = s.d.imm) ∧
    (s.d.isAlu = false → s.d.isLui = false → (s.d.isJal = true ∨ s.d.isJalr = true) → s.cfg.linkWrite = true →
      t.e.result = s.d.pcPlus4) ∧
    (s.d.isAlu = false → s.d.isLui = false → ¬ ((s.d.isJal = true ∨ s.d.isJalr = true) ∧ s.cfg.linkWrite = true) →
      t.e.result = 0#32)

/-- R158, R159, R161: in a cycle that commits, Fetch holds if Decode stalls, and otherwise reads the word at the branch
target if one is valid, else at `pcPlus4`, from the memory as it was at the start of the cycle. -/
def Obligations.FetchOfTheNextWord : Prop :=
  ∀ s t : State, s.runs = true → step s = .next t → t.halted = false →
    (stalls s = true → t.f = s.f) ∧
    (stalls s = false →
      let a := if s.d.branchValid = true then s.d.branchTarget else s.f.pcPlus4
      ∃ w, busRead s.cfg s.mem a .word = .ok w ∧ t.f = { pc := a, pcPlus4 := a + 4#32, instruction := w })

/-- R160, R327: a fetch that fails abandons the whole cycle: the machine halts with the fault recorded, and nothing else of
the core's state (R54) changes but the count. That the abandoned cycle's count stands is read from R179 and R52 (log entry
12). A cycle halts the machine in no other way. -/
def Obligations.FetchFaultAbandonsTheCycle : Prop :=
  ∀ s : State, s.runs = true →
    (∀ k, stalls s = false → busRead s.cfg s.mem (fetchAddr s) .word = .error k →
      ∃ inputs, step s = .next { s with
        halted := true
        fetchFault := some { cycle := s.cycleCount + 1, kind := k, addr := fetchAddr s }
        cycleCount := s.cycleCount + 1
        freezeIn := inputs }) ∧
    (∀ t, step s = .next t → t.halted = true →
      stalls s = false ∧ ∃ k, busRead s.cfg s.mem (fetchAddr s) .word = .error k)

/-- R153, R328: a halted machine never changes, however many cycles are asked of it. -/
def Obligations.HaltedMachineStandsStill : Prop :=
  ∀ (s : State) (k : Nat), s.halted = true → runFor k s = .next s

/-- R152: a frozen cycle changes only `cycleCount`. That the input is consumed is the model's own convention (log entry 3). -/
def Obligations.FrozenCycleOnlyCounts : Prop :=
  ∀ (s : State) (rest : List Bool), s.halted = false → s.freezeIn = true :: rest →
    step s = .next { s with cycleCount := s.cycleCount + 1, freezeIn := rest }

/-- R52, R368: no step, and so no instruction, reads the cycle count: states that differ only in cycle numbers step to states
that differ only in cycle numbers. -/
def Obligations.NoStepReadsTheCycleCount : Prop :=
  ∀ s s' t : State, s.timeless = s'.timeless → step s = .next t →
    ∃ t', step s' = .next t' ∧ t.timeless = t'.timeless

/-! ## Decode: which word it takes -/

/-- R170, R179: when the word in the F latch is neither squashed nor stalled and decodes to `i`, a step that is not frozen is
`exec i`, with only the host's input consumed around it (log entries 1 and 3). -/
def Obligations.StepRunsTheDecodedInstruction : Prop :=
  ∀ (s : State) (i : Instr), s.runs = true → s.d.branchValid = false → stalls s = false →
    decode s.f.instruction = .instr i → step s = exec i { s with freezeIn := s.freezeIn.tail }

/-- R154: while the D latch holds a valid target, the word in the F latch does not matter, Decode writes a bubble, and Fetch
reads at the target. -/
def Obligations.SquashedWordHasNoEffect : Prop :=
  ∀ s : State, s.runs = true → s.d.branchValid = true → stalls s = false ∧ ∃ t, step s = .next t ∧
    (∀ w, t.halted = false → step { s with f := { s.f with instruction := w } } = .next t) ∧
    (t.halted = false → t.d = DLatch.bubble ∧ t.f.pc = s.d.branchTarget)

/-- R155, R161: a stalled cycle holds the F latch and makes no fetch, so it never halts; Decode writes a bubble;
and where MemoryAccess makes no access either, what memory holds does not matter. -/
def Obligations.StalledCycleHoldsFetch : Prop :=
  ∀ s : State, s.runs = true → stalls s = true → ∃ t, step s = .next t ∧
    t.halted = false ∧ t.f = s.f ∧ t.d = DLatch.bubble ∧ t.cycleCount = s.cycleCount + 1 ∧
    (s.e.isLoad = false → s.e.isStore = false → ∀ m', step { s with mem := m' } = .next { t with mem := m' })

/-- R155, R156, R157: Decode stalls exactly when the policy is `interlock`, the word is not squashed, and a register other than
`x0` that it reads is still to be written by the instruction in the D, E or M latch. -/
def Obligations.StallConditionIsAPendingSource : Prop :=
  ∀ s : State, stalls s = true ↔
    s.cfg.hazardPolicy = .interlock ∧ s.d.branchValid = false ∧
    ∃ (i : Instr) (r : RegIdx), decode s.f.instruction = .instr i ∧ r ≠ 0#5 ∧
      ((r = rs1Of s.f.instruction ∧ i.cls ∈ [.aluReg, .aluImm, .load, .store, .jalr, .branch]) ∨
        (r = rs2Of s.f.instruction ∧ i.cls ∈ [.aluReg, .store, .branch])) ∧
      ((s.d.wbEnable = true ∧ s.d.rd = r) ∨ (s.e.wbEnable = true ∧ s.e.rd = r) ∨ (s.m.wbValid = true ∧ s.m.rd = r))

/-- R310: an unrecognised word that is not squashed becomes a bubble: it never stalls, and execution goes on with the word
after it; over the architectural view only the pc moves. -/
def Obligations.UnrecognisedWordIsABubble : Prop :=
  ∀ (s : State) (why : Reject) (w : Word), s.runs = true → s.d.branchValid = false →
    decode s.f.instruction = .reject why → s.fetches w →
    stalls s = false ∧ ∃ t, step s = .next t ∧ t.halted = false ∧ t.d = DLatch.bubble ∧
      t.f = { pc := s.f.pcPlus4, pcPlus4 := s.f.pcPlus4 + 4#32, instruction := w } ∧
      t.arch = { s.arch with pc := s.f.pcPlus4 }

/-- R171: a bubble passes through Execute and MemoryAccess as a bubble, with no access and no fault, writes no register, causes
no stall, and presents no target. -/
def Obligations.BubblesAreInert : Prop :=
  (∀ c, executeStage c DLatch.bubble = ELatch.bubble) ∧
  (∀ c m, memoryStage c m ELatch.bubble = { m := MLatch.bubble, write := none, fault := none }) ∧
  (∀ x, writeBack x MLatch.bubble = x) ∧
  (∀ (s : State) (r : RegIdx), s.d = DLatch.bubble → s.e = ELatch.bubble → s.m = MLatch.bubble →
    pendingWrite s r = false ∧ squashes s = false)

/-! ## Decode: what it makes of a word -/

/-- R162, R163, R167: in the cycle in which a word completes Decode, the D latch gets the word's raw fields, the values of the
registers they name and the F latch's `pcPlus4`. -/
def Obligations.RawFieldsComeFromTheWord : Prop :=
  ∀ (s : State) (i : Instr) (w : Word), decode s.f.instruction = .instr i → s.fetches w → ∃ t, exec i s = .next t ∧
    t.d.rd = s.f.instruction.extractLsb' 7 5 ∧ t.d.funct3 = s.f.instruction.extractLsb' 12 3 ∧
    t.d.funct7 = s.f.instruction.extractLsb' 25 7 ∧ t.d.shamt = s.f.instruction.extractLsb' 20 5 ∧
    t.d.rs1 = s.f.instruction.extractLsb' 15 5 ∧ t.d.rs2 = s.f.instruction.extractLsb' 20 5 ∧
    t.d.rs1Value = s.readReg (s.f.instruction.extractLsb' 15 5) ∧
    t.d.rs2Value = s.readReg (s.f.instruction.extractLsb' 20 5) ∧ t.d.pcPlus4 = s.f.pcPlus4

/-- R164: the immediate the D latch gets follows the format of the word. -/
def Obligations.ImmediateFollowsTheFormat : Prop :=
  ∀ (s : State) (i : Instr) (w : Word), decode s.f.instruction = .instr i → s.fetches w → ∃ t, exec i s = .next t ∧
    t.d.imm =
      match i.cls with
      | .aluReg => 0#32
      | .aluImm => (immIField s.f.instruction).signExtend 32
      | .load => (immIField s.f.instruction).signExtend 32
      | .jalr => (immIField s.f.instruction).signExtend 32
      | .store => (immSField s.f.instruction).signExtend 32
      | .branch => (immBField s.f.instruction).signExtend 32
      | .lui => immUField s.f.instruction ++ 0#12
      | .jal => (immJField s.f.instruction).signExtend 32

/-- R165, R166: exactly the class's flag is set in the D latch, and the write enable follows the class, `LINK_WRITE` and
`rd`. -/
def Obligations.ClassFlagsAndWriteEnable : Prop :=
  ∀ (s : State) (i : Instr) (w : Word), s.fetches w → ∃ t, exec i s = .next t ∧
    t.d.isAlu = decide (i.cls = .aluReg ∨ i.cls = .aluImm) ∧ t.d.aluReg = decide (i.cls = .aluReg) ∧
    t.d.isLoad = decide (i.cls = .load) ∧ t.d.isStore = decide (i.cls = .store) ∧ t.d.isLui = decide (i.cls = .lui) ∧
    t.d.isJal = decide (i.cls = .jal) ∧ t.d.isJalr = decide (i.cls = .jalr) ∧ t.d.isBranch = decide (i.cls = .branch) ∧
    t.d.classFlags = 1 ∧
    t.d.wbEnable =
      ((t.d.isAlu || t.d.isLoad || t.d.isLui || ((t.d.isJal || t.d.isJalr) && s.cfg.linkWrite)) && t.d.rd != 0#5)

/-- R168, R169: the target and valid flag Decode presents: JAL and JALR always, a branch when its condition holds, no other
instruction ever; bit 0 of a JALR's target is not cleared. -/
def Obligations.TransfersResolveInDecode : Prop :=
  ∀ (s : State) (w : Word), s.fetches w →
    (∀ (i : Instr), i.cls ∉ [.jal, .jalr, .branch] → ∃ t, exec i s = .next t ∧
      t.d.branchValid = false ∧ t.d.branchTarget = 0#32) ∧
    (∀ rd offset, ∃ t, exec (.jal rd offset) s = .next t ∧
      t.d.branchValid = true ∧ t.d.branchTarget = s.f.pc + offset.signExtend 32) ∧
    (∀ rd rs1 imm, ∃ t, exec (.jalr rd rs1 imm) s = .next t ∧
      t.d.branchValid = true ∧ t.d.branchTarget = s.readReg rs1 + imm.signExtend 32) ∧
    ∀ (rs1 rs2 : RegIdx) (offset : BitVec 13),
      let a := s.readReg rs1
      let b := s.readReg rs2
      ∀ row ∈ [(Instr.beq rs1 rs2 offset, decide (a = b)), (.bne rs1 rs2 offset, decide (a ≠ b)),
          (.blt rs1 rs2 offset, decide (a.toInt < b.toInt)), (.bge rs1 rs2 offset, decide (¬ a.toInt < b.toInt)),
          (.bltu rs1 rs2 offset, decide (a.toNat < b.toNat)), (.bgeu rs1 rs2 offset, decide (¬ a.toNat < b.toNat))],
        ∃ t, exec row.1 s = .next t ∧ t.d.branchValid = row.2 ∧
          t.d.branchTarget = if row.2 = true then s.f.pc + offset.signExtend 32 else 0#32

/-! ## Instruction by instruction: result and frame

Operand values are those Decode reads (R202). The effect is over the architectural view: `RunReachesTheDrainedState` says
that the machine's own next cycles reach it. -/

/-- R203 to R212: the ten register-register ALU instructions. -/
def Obligations.AluRegResults : Prop :=
  ∀ (s : State) (rd rs1 rs2 : RegIdx) (w : Word), s.d.branchValid = false → s.fetches w →
    let a := s.readReg rs1
    let b := s.readReg rs2
    ∀ row ∈ [(Instr.add rd rs1 rs2, a + b), (.sub rd rs1 rs2, a - b), (.sll rd rs1 rs2, a <<< (b.toNat % 32)),
        (.slt rd rs1 rs2, if a.toInt < b.toInt then 1#32 else 0#32),
        (.sltu rd rs1 rs2, if a.toNat < b.toNat then 1#32 else 0#32), (.xor rd rs1 rs2, a ^^^ b),
        (.srl rd rs1 rs2, a >>> (b.toNat % 32)),
        (.sra rd rs1 rs2,
          if s.cfg.sraImplemented = true then a.sshiftRight (b.toNat % 32) else a >>> (b.toNat % 32)),
        (.or rd rs1 rs2, a ||| b), (.and rd rs1 rs2, a &&& b)],
      ∃ t, exec row.1 s = .next t ∧ WritesRegister s t rd row.2 s.f.pcPlus4

/-- R213 to R221: the nine register-immediate ALU instructions. -/
def Obligations.AluImmResults : Prop :=
  ∀ (s : State) (rd rs1 : RegIdx) (imm : BitVec 12) (shamt : BitVec 5) (w : Word),
    s.d.branchValid = false → s.fetches w →
    let a := s.readReg rs1
    let b : Word := imm.signExtend 32
    ∀ row ∈ [(Instr.addi rd rs1 imm, a + b), (.slti rd rs1 imm, if a.toInt < b.toInt then 1#32 else 0#32),
        (.sltiu rd rs1 imm, if a.toNat < b.toNat then 1#32 else 0#32), (.xori rd rs1 imm, a ^^^ b),
        (.ori rd rs1 imm, a ||| b), (.andi rd rs1 imm, a &&& b), (.slli rd rs1 shamt, a <<< shamt.toNat),
        (.srli rd rs1 shamt, a >>> shamt.toNat),
        (.srai rd rs1 shamt,
          if s.cfg.sraImplemented = true then a.sshiftRight shamt.toNat else a >>> shamt.toNat)],
      ∃ t, exec row.1 s = .next t ∧ WritesRegister s t rd row.2 s.f.pcPlus4

/-- R240: LUI writes its immediate, the low 12 bits zero. -/
def Obligations.LuiResult : Prop :=
  ∀ (s : State) (rd : RegIdx) (imm20 : BitVec 20) (w : Word), s.d.branchValid = false → s.fetches w →
    ∃ t, exec (.lui rd imm20) s = .next t ∧ WritesRegister s t rd (imm20 ++ 0#12) s.f.pcPlus4

/-- R253 to R255: JAL and JALR go to their target, and under `LINK_WRITE` write the address of the word after the jump; without
it they write nothing. -/
def Obligations.JumpResults : Prop :=
  ∀ (s : State) (rd rs1 : RegIdx) (offset : BitVec 21) (imm : BitVec 12) (w : Word),
    s.d.branchValid = false → s.fetches w →
    ∀ row ∈ [(Instr.jal rd offset, s.f.pc + offset.signExtend 32),
        (.jalr rd rs1 imm, s.readReg rs1 + imm.signExtend 32)],
      ∃ t, exec row.1 s = .next t ∧
        (s.cfg.linkWrite = true → WritesRegister s t rd s.f.pcPlus4 row.2) ∧
        (s.cfg.linkWrite = false → WritesNothing s t row.2)

/-- R256 to R262: a branch goes to `pc + offset` when its condition holds and falls through when it does not; it writes
nothing. -/
def Obligations.BranchResults : Prop :=
  ∀ (s : State) (rs1 rs2 : RegIdx) (offset : BitVec 13) (w : Word), s.d.branchValid = false → s.fetches w →
    let a := s.readReg rs1
    let b := s.readReg rs2
    ∀ row ∈ [(Instr.beq rs1 rs2 offset, decide (a = b)), (.bne rs1 rs2 offset, decide (a ≠ b)),
        (.blt rs1 rs2 offset, decide (a.toInt < b.toInt)), (.bge rs1 rs2 offset, decide (b.toInt ≤ a.toInt)),
        (.bltu rs1 rs2 offset, decide (a.toNat < b.toNat)), (.bgeu rs1 rs2 offset, decide (b.toNat ≤ a.toNat))],
      ∃ t, exec row.1 s = .next t ∧
        WritesNothing s t (if row.2 = true then s.f.pc + offset.signExtend 32 else s.f.pcPlus4)

/-- R282, R286 to R290: a load whose read succeeds writes the n bytes at `x[rs1] + imm`, extended, into `rd`. -/
def Obligations.LoadResults : Prop :=
  ∀ (s : State) (rd rs1 : RegIdx) (imm : BitVec 12) (w v : Word), s.d.branchValid = false → s.fetches w →
    let addr := s.readReg rs1 + imm.signExtend 32
    ∀ row ∈ [(Instr.lb rd rs1 imm, Width.byte, (v.extractLsb' 0 8).signExtend 32),
        (.lh rd rs1 imm, .half, (v.extractLsb' 0 16).signExtend 32), (.lw rd rs1 imm, .word, v),
        (.lbu rd rs1 imm, .byte, (v.extractLsb' 0 8).setWidth 32),
        (.lhu rd rs1 imm, .half, (v.extractLsb' 0 16).setWidth 32)],
      busRead s.cfg s.arch.mem addr row.2.1 = .ok v →
      ∃ t, exec row.1 s = .next t ∧ WritesRegister s t rd row.2.2 s.f.pcPlus4

/-- R282, R326: a load whose read fails logs the fault, writes no register, and falls through. -/
def Obligations.LoadFaults : Prop :=
  ∀ (s : State) (rd rs1 : RegIdx) (imm : BitVec 12) (w : Word) (k : BusError),
    s.d.branchValid = false → s.fetches w →
    let addr := s.readReg rs1 + imm.signExtend 32
    ∀ row ∈ [(Instr.lb rd rs1 imm, Width.byte), (.lh rd rs1 imm, .half), (.lw rd rs1 imm, .word),
        (.lbu rd rs1 imm, .byte), (.lhu rd rs1 imm, .half)],
      busRead s.cfg s.arch.mem addr row.2 = .error k →
      ∃ t, exec row.1 s = .next t ∧ LogsFault s t k .load addr row.2 s.f.pcPlus4

/-- R283, R291 to R293: a store to an aligned address in RAM writes the low n bytes of `x[rs2]` at `x[rs1] + imm`, and nothing
else. -/
def Obligations.StoreResults : Prop :=
  ∀ (s : State) (rs2 rs1 : RegIdx) (imm : BitVec 12) (w : Word),
    s.d.branchValid = false → s.fetches w → Memory.wf s.mem →
    let addr := s.readReg rs1 + imm.signExtend 32
    ∀ row ∈ [(Instr.sb rs2 rs1 imm, Width.byte), (.sh rs2 rs1 imm, .half), (.sw rs2 rs1 imm, .word)],
      addr.toNat % row.2.bytes = 0 → deviceAt s.cfg addr = .ram →
      ∃ t, exec row.1 s = .next t ∧ WritesMemory s t addr row.2 (s.readReg rs2) s.f.pcPlus4

/-- R283, R325: a store whose write fails logs the fault, writes no byte, and falls through. -/
def Obligations.StoreFaults : Prop :=
  ∀ (s : State) (rs2 rs1 : RegIdx) (imm : BitVec 12) (w : Word) (k : BusError),
    s.d.branchValid = false → s.fetches w →
    let addr := s.readReg rs1 + imm.signExtend 32
    ∀ row ∈ [(Instr.sb rs2 rs1 imm, Width.byte), (.sh rs2 rs1 imm, .half), (.sw rs2 rs1 imm, .word)],
      busWrite s.cfg addr row.2 (s.readReg rs2) = .error k →
      ∃ t, exec row.1 s = .next t ∧ LogsFault s t k .store addr row.2 s.f.pcPlus4

/-- R37, R181: the cycle in which an instruction completes Decode differs from that of any other instruction in the D latch
only; if it halts, not even there. -/
def Obligations.DecodeChangesOnlyItsLatch : Prop :=
  ∀ (i j : Instr) (s t t' : State), exec i s = .next t → exec j s = .next t' →
    { t with d := t'.d } = t' ∧ (s.halted = false → t.halted = true → t = t')

/-! ## The whole machine -/

/-- R181, R360: the pipeline refines sequential execution: over the architectural view, the cycle in which an instruction
without a hazard completes Decode does what the instruction's own rule says (log entry 1). -/
def Obligations.PipelineRefinesSequentialExecution : Prop :=
  ∀ (s : State) (i : Instr) (w : Word), s.runs = true → s.d.branchValid = false →
    s.f.pcPlus4 = s.f.pc + 4#32 → decode s.f.instruction = .instr i → hazard s.f.instruction s = false → s.fetches w →
    ∃ t, step s = .next t ∧ t.halted = false ∧ t.arch = isaExec s.cfg i s.arch

/-- R154, R155: a stalled cycle and a cycle that squashes leave the architectural view as it is. -/
def Obligations.StallAndSquashKeepTheArchitecture : Prop :=
  ∀ s t : State, s.runs = true → (stalls s = true ∨ s.d.branchValid = true) → step s = .next t → t.halted = false →
    t.arch = s.arch

/-- R182: the architectural view is what the machine's own next cycles reach: unless a fetch fault halts it, two cycles on, memory
and the fault log are the drained ones, and three cycles on, so are the registers. -/
def Obligations.RunReachesTheDrainedState : Prop :=
  ∀ t : State, t.halted = false → t.freezeIn = [] → ∃ v u,
    runFor 2 t = .next v ∧ step v = .next u ∧
    (v.halted = false → v.mem = t.drain.mem ∧ v.dataFaults = t.drain.dataFaults) ∧
    (u.halted = false → u.x = t.drain.x)

/-- R360: an instruction that has no hazard reads, in Decode, the values its source registers have once every older instruction
has written back. -/
def Obligations.UnstalledOperandsAreFinal : Prop :=
  ∀ (s : State) (i : Instr), decode s.f.instruction = .instr i → hazard s.f.instruction s = false →
    (i.cls ∈ [.aluReg, .aluImm, .load, .store, .jalr, .branch] →
      s.readReg (rs1Of s.f.instruction) = s.arch.reg (rs1Of s.f.instruction)) ∧
    (i.cls ∈ [.aluReg, .store, .branch] →
      s.readReg (rs2Of s.f.instruction) = s.arch.reg (rs2Of s.f.instruction))

/-- R372: an instruction stalls for at most three cycles. -/
def Obligations.StallLastsAtMostThreeCycles : Prop :=
  ∀ s : State, s.halted = false → s.freezeIn = [] →
    ∃ k t, k ≤ 3 ∧ runFor k s = .next t ∧ t.halted = false ∧ t.f = s.f ∧ stalls t = false

/-- Every step keeps the invariant: legal latches (R42, R165, R166, R171), canonical memory of mapped bytes (R53, R74), a log of
real faults, at most one a cycle (R51, R332), and the halt status (R49, R50). -/
def Obligations.StepKeepsTheInvariant : Prop := ∀ s t : State, s.Inv → step s = .next t → t.Inv

/-- Every construction meets the invariant, and so does reset, which is the construction with R10's defaults (log entry 6). -/
def Obligations.ConstructedStateMeetsTheInvariant : Prop :=
  State.construct Config.default = .next State.reset ∧ State.reset.Inv ∧ ∀ (c : Config) (s : State), State.construct c = .next s → s.Inv

/-- The host's set-up operations keep the invariant. -/
def Obligations.HostSetupKeepsTheInvariant : Prop :=
  ∀ s t : State, s.Inv →
    (∀ ws, romLoad ws s = .next t → t.Inv) ∧ (∀ i v, setReg i v s = .next t → t.Inv) ∧
    (∀ a n v, hostWrite a n v s = .next t → t.Inv)

/-- R71: no step changes a byte of ROM. That no step changes the configuration either is R10's and R54's parameter, held in
State by the model's choice (log entry 2). -/
def Obligations.RomIsNeverWritten : Prop :=
  ∀ s t : State, s.Inv → step s = .next t → t.cfg = s.cfg ∧
    ∀ a : Word, deviceAt s.cfg a = .rom → Memory.readByte t.mem a.toNat = Memory.readByte s.mem a.toNat

/-- R51, R333: a step appends at most one record to `dataFaults`, with the step's cycle number, and never shortens it; a cycle
that halts appends none. -/
def Obligations.DataFaultLogGrowsByOne : Prop :=
  ∀ s t : State, step s = .next t →
    (t.dataFaults = s.dataFaults ∨ ∃ r, t.dataFaults = s.dataFaults ++ [r] ∧ r.cycle = t.cycleCount) ∧
    (t.halted = true → t.dataFaults = s.dataFaults)

/-! ## The host interface -/

/-- R352: `rom.load` writes word `i` of the list into ROM word `i` and nothing else; it is refused after the first cycle and for a
list longer than the ROM. -/
def Obligations.RomLoadWritesTheImage : Prop :=
  ∀ (s : State) (ws : List Word), configOk s.cfg = true → Memory.wf s.mem →
    (s.cycleCount ≠ 0 → romLoad ws s = .refused .afterFirstCycle) ∧
    (s.cycleCount = 0 → s.cfg.romSize / 4 < ws.length → romLoad ws s = .refused .romImageTooLong) ∧
    (s.cycleCount = 0 → ws.length ≤ s.cfg.romSize / 4 → ∃ m, romLoad ws s = .next { s with mem := m } ∧
      (∀ i (h : i < ws.length), Memory.readLE m (s.cfg.romBase.toNat + 4 * i) .word = ws[i]) ∧
      ∀ a, ¬ (s.cfg.romBase.toNat ≤ a ∧ a < s.cfg.romBase.toNat + 4 * ws.length) →
        Memory.readByte m a = Memory.readByte s.mem a)

/-- R353, R38: before the first cycle (a cycle count of 0, log entry 9) the host sets any of `x1` to `x31`, a write to `x0`
is ignored, and after it the write is refused. -/
def Obligations.HostRegisterWrite : Prop :=
  ∀ (s : State) (i : RegIdx) (v : Word),
    (s.cycleCount ≠ 0 → setReg i v s = .refused .afterFirstCycle) ∧
    (s.cycleCount = 0 → ∃ x', setReg i v s = .next { s with x := x' } ∧
      ∀ r, readFile x' r = if r = i ∧ i ≠ 0#5 then v else s.readReg r)

/-- R354: before the first cycle (a cycle count of 0, log entry 9) the host writes RAM through the bus at once; a write that
gets an error writes nothing, returns the error and logs nothing; after the first cycle it is refused. -/
def Obligations.HostBusWrite : Prop :=
  ∀ (s : State) (a : Word) (n : Width) (v : Word),
    (s.cycleCount ≠ 0 → hostWrite a n v s = .refused .afterFirstCycle) ∧
    (s.cycleCount = 0 → ∀ k, busWrite s.cfg a n v = .error k → hostWrite a n v s = .fault (.hostBus k)) ∧
    (s.cycleCount = 0 → Memory.wf s.mem → ∀ w, busWrite s.cfg a n v = .ok w →
      ∃ m, hostWrite a n v s = .next { s with mem := m } ∧
        ∀ b, Memory.readByte m b =
          if a.toNat ≤ b ∧ b < a.toNat + n.bytes then v.extractLsb' (8 * (b - a.toNat)) 8
          else Memory.readByte s.mem b)

/-- The model's own convention (log entry 5): after `withFetchWord` the very next step runs the instruction of the word. -/
def Obligations.FetchWordRunsInTheNextStep : Prop :=
  ∀ (s : State) (w : Word) (i : Instr), decode w = .instr i →
    decodeTableWord 32 w.toNat = some i ∧ step (s.withFetchWord 32 w.toNat) = exec i (s.withFetchWord 32 w.toNat)

/-! ## Encoding -/

/-- Decoding the word of a well-formed instruction gives the instruction back, with every operand. -/
def Obligations.DecodeOfEncode : Prop := ∀ i : Instr, i.wf = true → decode (encode i) = .instr i

/-- Every word that decodes is the word of the instruction it decodes to, and that instruction is well-formed. -/
def Obligations.EncodeOfDecode : Prop :=
  ∀ (w : Word) (i : Instr), decode w = .instr i → i.wf = true ∧ encode i = w

/-- R128: the decoder recognises exactly the words that a row of the opcode table selects, as that row's instruction, and no word
is selected by two rows. -/
def Obligations.DecoderFollowsTheOpcodeTable : Prop :=
  ∀ w : Word,
    (∀ i, decode w = .instr i → ∃ r ∈ opcodeTable, r.mnemonic = i.mnemonic ∧ w &&& r.mask = r.pattern) ∧
    (∀ r ∈ opcodeTable, w &&& r.mask = r.pattern → ∃ i, decode w = .instr i ∧ i.mnemonic = r.mnemonic) ∧
    (∀ r ∈ opcodeTable, ∀ q ∈ opcodeTable, w &&& r.mask = r.pattern → w &&& q.mask = q.pattern → r = q)

/-- The words of the spec's examples (R203, R204, R213, R221, R240, R254, R255, R257, R263, R287, R291, R293). -/
def Obligations.ExampleWordsDecode : Prop :=
  decode 0x002081B3#32 = .instr (.add 3#5 1#5 2#5) ∧
  decode 0x402081B3#32 = .instr (.sub 3#5 1#5 2#5) ∧
  decode 0xFFF08193#32 = .instr (.addi 3#5 1#5 0xFFF#12) ∧
  decode 0x4040D193#32 = .instr (.srai 3#5 1#5 4#5) ∧
  decode 0x20000437#32 = .instr (.lui 8#5 0x20000#20) ∧
  decode 0x010000EF#32 = .instr (.jal 1#5 16#21) ∧
  decode 0xFFD280E7#32 = .instr (.jalr 1#5 5#5 0xFFD#12) ∧
  decode 0x00208463#32 = .instr (.beq 1#5 2#5 8#13) ∧
  decode 0x80000063#32 = .instr (.beq 0#5 0#5 0x1000#13) ∧
  decode 0x00241283#32 = .instr (.lh 5#5 8#5 2#12) ∧
  decode 0x009401A3#32 = .instr (.sb 9#5 8#5 3#12) ∧
  decode 0x00942223#32 = .instr (.sw 9#5 8#5 4#12)

/-- R130, R311: words the core does not recognise. -/
def Obligations.ExampleWordsAreRejected : Prop :=
  decode 0x00000000#32 = .reject .unknownOpcode ∧ decode 0xFFFFFFFF#32 = .reject .unknownOpcode ∧
  decode 0x00000073#32 = .reject .unknownOpcode ∧ decode 0x00100073#32 = .reject .unknownOpcode ∧
  decode 0x00000297#32 = .reject .unknownOpcode ∧ decode 0x0FF0000F#32 = .reject .unknownOpcode ∧
  decode 0x02208133#32 = .reject .reservedFunct ∧ decode 0x00003283#32 = .reject .reservedFunct ∧
  decode 0x30002573#32 = .reject .unknownOpcode

/-! ## The cycle function over the state type of R54 -/

/-- R54, R179: a step is the spec's cycle function, of the configuration, the input `freeze` and the state of the core alone.
Beside it the configuration stays (log entry 2) and a machine that is not halted takes one input from the host's list (log
entry 3). -/
def Obligations.StepIsTheCycleFunction : Prop :=
  ∀ s : State, step s = .next
    { cycleOf s.cfg (nextFreeze s) s.toCoreState with
      cfg := s.cfg
      freezeIn := if s.halted = true then s.freezeIn else s.freezeIn.tail }
end

