-- ==== Sys2Proof/Laws/State.lean ====
section
/-! SUPPORT. The fields of each named update of State: one lemma per field per update. -/

namespace Sys2Proof.Machine

/-! ## `initial` -/

@[simp] theorem initial_x (c : Config) : (State.initial c).x = Vector.replicate 31 0#32 := rfl
@[simp] theorem initial_f (c : Config) : (State.initial c).f = { pc := c.romBase, pcPlus4 := c.romBase, instruction := 0#32 } := rfl
@[simp] theorem initial_d (c : Config) : (State.initial c).d = DLatch.bubble := rfl
@[simp] theorem initial_e (c : Config) : (State.initial c).e = ELatch.bubble := rfl
@[simp] theorem initial_m (c : Config) : (State.initial c).m = MLatch.bubble := rfl
@[simp] theorem initial_mem (c : Config) : (State.initial c).mem = [] := rfl
@[simp] theorem initial_halted (c : Config) : (State.initial c).halted = false := rfl
@[simp] theorem initial_fetchFault (c : Config) : (State.initial c).fetchFault = none := rfl
@[simp] theorem initial_dataFaults (c : Config) : (State.initial c).dataFaults = [] := rfl
@[simp] theorem initial_cycleCount (c : Config) : (State.initial c).cycleCount = 0 := rfl
@[simp] theorem initial_cfg (c : Config) : (State.initial c).cfg = c := rfl
@[simp] theorem initial_freezeIn (c : Config) : (State.initial c).freezeIn = [] := rfl

/-! ## `tick` -/

@[simp] theorem tick_cfg (s : State) : (s.tick).cfg = s.cfg := rfl
@[simp] theorem tick_x (s : State) : (s.tick).x = s.x := rfl
@[simp] theorem tick_f (s : State) : (s.tick).f = s.f := rfl
@[simp] theorem tick_d (s : State) : (s.tick).d = s.d := rfl
@[simp] theorem tick_e (s : State) : (s.tick).e = s.e := rfl
@[simp] theorem tick_m (s : State) : (s.tick).m = s.m := rfl
@[simp] theorem tick_mem (s : State) : (s.tick).mem = s.mem := rfl
@[simp] theorem tick_halted (s : State) : (s.tick).halted = s.halted := rfl
@[simp] theorem tick_fetchFault (s : State) : (s.tick).fetchFault = s.fetchFault := rfl
@[simp] theorem tick_dataFaults (s : State) : (s.tick).dataFaults = s.dataFaults := rfl
@[simp] theorem tick_cycleCount (s : State) : (s.tick).cycleCount = s.cycleCount + 1 := rfl
@[simp] theorem tick_freezeIn (s : State) : (s.tick).freezeIn = s.freezeIn := rfl

/-! ## `dropFreeze` -/

@[simp] theorem dropFreeze_cfg (s : State) : (s.dropFreeze).cfg = s.cfg := rfl
@[simp] theorem dropFreeze_x (s : State) : (s.dropFreeze).x = s.x := rfl
@[simp] theorem dropFreeze_f (s : State) : (s.dropFreeze).f = s.f := rfl
@[simp] theorem dropFreeze_d (s : State) : (s.dropFreeze).d = s.d := rfl
@[simp] theorem dropFreeze_e (s : State) : (s.dropFreeze).e = s.e := rfl
@[simp] theorem dropFreeze_m (s : State) : (s.dropFreeze).m = s.m := rfl
@[simp] theorem dropFreeze_mem (s : State) : (s.dropFreeze).mem = s.mem := rfl
@[simp] theorem dropFreeze_halted (s : State) : (s.dropFreeze).halted = s.halted := rfl
@[simp] theorem dropFreeze_fetchFault (s : State) : (s.dropFreeze).fetchFault = s.fetchFault := rfl
@[simp] theorem dropFreeze_dataFaults (s : State) : (s.dropFreeze).dataFaults = s.dataFaults := rfl
@[simp] theorem dropFreeze_cycleCount (s : State) : (s.dropFreeze).cycleCount = s.cycleCount := rfl
@[simp] theorem dropFreeze_freezeIn (s : State) : (s.dropFreeze).freezeIn = s.freezeIn.tail := rfl

@[simp] theorem dropFreeze_toCoreState (s : State) : s.dropFreeze.toCoreState = s.toCoreState := rfl

/-! ## `under` and `coreAfter` -/

@[simp] theorem under_toCoreState (c : Config) (s : CoreState) : (s.under c).toCoreState = s := rfl
@[simp] theorem under_cfg (c : Config) (s : CoreState) : (s.under c).cfg = c := rfl
@[simp] theorem under_freezeIn (c : Config) (s : CoreState) : (s.under c).freezeIn = [] := rfl
@[simp] theorem coreAfter_next (t : State) (s : CoreState) : coreAfter (.next t) s = t.toCoreState := rfl

/-! ## `raiseFetchFault` -/

@[simp] theorem raiseFetchFault_cfg (s : State) (k : BusError) (a : Word) : (s.raiseFetchFault k a).cfg = s.cfg := rfl
@[simp] theorem raiseFetchFault_x (s : State) (k : BusError) (a : Word) : (s.raiseFetchFault k a).x = s.x := rfl
@[simp] theorem raiseFetchFault_f (s : State) (k : BusError) (a : Word) : (s.raiseFetchFault k a).f = s.f := rfl
@[simp] theorem raiseFetchFault_d (s : State) (k : BusError) (a : Word) : (s.raiseFetchFault k a).d = s.d := rfl
@[simp] theorem raiseFetchFault_e (s : State) (k : BusError) (a : Word) : (s.raiseFetchFault k a).e = s.e := rfl
@[simp] theorem raiseFetchFault_m (s : State) (k : BusError) (a : Word) : (s.raiseFetchFault k a).m = s.m := rfl
@[simp] theorem raiseFetchFault_mem (s : State) (k : BusError) (a : Word) : (s.raiseFetchFault k a).mem = s.mem := rfl
@[simp] theorem raiseFetchFault_halted (s : State) (k : BusError) (a : Word) : (s.raiseFetchFault k a).halted = true := rfl
@[simp] theorem raiseFetchFault_fetchFault (s : State) (k : BusError) (a : Word) : (s.raiseFetchFault k a).fetchFault = some { cycle := s.cycleCount, kind := k, addr := a } := rfl
@[simp] theorem raiseFetchFault_dataFaults (s : State) (k : BusError) (a : Word) : (s.raiseFetchFault k a).dataFaults = s.dataFaults := rfl
@[simp] theorem raiseFetchFault_cycleCount (s : State) (k : BusError) (a : Word) : (s.raiseFetchFault k a).cycleCount = s.cycleCount := rfl
@[simp] theorem raiseFetchFault_freezeIn (s : State) (k : BusError) (a : Word) : (s.raiseFetchFault k a).freezeIn = s.freezeIn := rfl

/-! ## `raiseDataFault` -/

@[simp] theorem raiseDataFault_cfg (s : State) (k : BusError) (c : Access) (a : Word) (n : Width) : (s.raiseDataFault k c a n).cfg = s.cfg := rfl
@[simp] theorem raiseDataFault_x (s : State) (k : BusError) (c : Access) (a : Word) (n : Width) : (s.raiseDataFault k c a n).x = s.x := rfl
@[simp] theorem raiseDataFault_f (s : State) (k : BusError) (c : Access) (a : Word) (n : Width) : (s.raiseDataFault k c a n).f = s.f := rfl
@[simp] theorem raiseDataFault_d (s : State) (k : BusError) (c : Access) (a : Word) (n : Width) : (s.raiseDataFault k c a n).d = s.d := rfl
@[simp] theorem raiseDataFault_e (s : State) (k : BusError) (c : Access) (a : Word) (n : Width) : (s.raiseDataFault k c a n).e = s.e := rfl
@[simp] theorem raiseDataFault_m (s : State) (k : BusError) (c : Access) (a : Word) (n : Width) : (s.raiseDataFault k c a n).m = s.m := rfl
@[simp] theorem raiseDataFault_mem (s : State) (k : BusError) (c : Access) (a : Word) (n : Width) : (s.raiseDataFault k c a n).mem = s.mem := rfl
@[simp] theorem raiseDataFault_halted (s : State) (k : BusError) (c : Access) (a : Word) (n : Width) : (s.raiseDataFault k c a n).halted = s.halted := rfl
@[simp] theorem raiseDataFault_fetchFault (s : State) (k : BusError) (c : Access) (a : Word) (n : Width) : (s.raiseDataFault k c a n).fetchFault = s.fetchFault := rfl
@[simp] theorem raiseDataFault_dataFaults (s : State) (k : BusError) (c : Access) (a : Word) (n : Width) : (s.raiseDataFault k c a n).dataFaults = s.dataFaults ++ [{ cycle := s.cycleCount, kind := k, access := c, addr := a, width := n }] := rfl
@[simp] theorem raiseDataFault_cycleCount (s : State) (k : BusError) (c : Access) (a : Word) (n : Width) : (s.raiseDataFault k c a n).cycleCount = s.cycleCount := rfl
@[simp] theorem raiseDataFault_freezeIn (s : State) (k : BusError) (c : Access) (a : Word) (n : Width) : (s.raiseDataFault k c a n).freezeIn = s.freezeIn := rfl

/-! ## `logFault` -/

/-- A pending fault with its cycle number. -/
def PendingFault.stamp (cycle : Nat) (p : PendingFault) : DataFaultRecord :=
  { cycle := cycle, kind := p.kind, access := p.access, addr := p.addr, width := p.width }

@[simp] theorem logFault_cfg (s : State) (p : Option PendingFault) : (s.logFault p).cfg = s.cfg := by cases p <;> rfl
@[simp] theorem logFault_x (s : State) (p : Option PendingFault) : (s.logFault p).x = s.x := by cases p <;> rfl
@[simp] theorem logFault_f (s : State) (p : Option PendingFault) : (s.logFault p).f = s.f := by cases p <;> rfl
@[simp] theorem logFault_d (s : State) (p : Option PendingFault) : (s.logFault p).d = s.d := by cases p <;> rfl
@[simp] theorem logFault_e (s : State) (p : Option PendingFault) : (s.logFault p).e = s.e := by cases p <;> rfl
@[simp] theorem logFault_m (s : State) (p : Option PendingFault) : (s.logFault p).m = s.m := by cases p <;> rfl
@[simp] theorem logFault_mem (s : State) (p : Option PendingFault) : (s.logFault p).mem = s.mem := by cases p <;> rfl
@[simp] theorem logFault_halted (s : State) (p : Option PendingFault) : (s.logFault p).halted = s.halted := by cases p <;> rfl
@[simp] theorem logFault_fetchFault (s : State) (p : Option PendingFault) : (s.logFault p).fetchFault = s.fetchFault := by cases p <;> rfl
theorem logFault_dataFaults (s : State) (p : Option PendingFault) :
    (s.logFault p).dataFaults = s.dataFaults ++ (p.map (PendingFault.stamp s.cycleCount)).toList := by
  cases p with
  | none => simp [State.logFault]
  | some q => rfl
@[simp] theorem logFault_cycleCount (s : State) (p : Option PendingFault) : (s.logFault p).cycleCount = s.cycleCount := by cases p <;> rfl
@[simp] theorem logFault_freezeIn (s : State) (p : Option PendingFault) : (s.logFault p).freezeIn = s.freezeIn := by cases p <;> rfl

/-! ## `commit` -/

@[simp] theorem commit_cfg (f' : FLatch) (d' : DLatch) (s : State) : (commit f' d' s).cfg = s.cfg := by
  simp [commit]
@[simp] theorem commit_x (f' : FLatch) (d' : DLatch) (s : State) : (commit f' d' s).x = writeBack s.x s.m := by
  simp [commit]
@[simp] theorem commit_f (f' : FLatch) (d' : DLatch) (s : State) : (commit f' d' s).f = f' := by
  simp [commit]
@[simp] theorem commit_d (f' : FLatch) (d' : DLatch) (s : State) : (commit f' d' s).d = d' := by
  simp [commit]
@[simp] theorem commit_e (f' : FLatch) (d' : DLatch) (s : State) : (commit f' d' s).e = executeStage s.cfg s.d := by
  simp [commit]
@[simp] theorem commit_m (f' : FLatch) (d' : DLatch) (s : State) : (commit f' d' s).m = (memoryStage s.cfg s.mem s.e).m := by
  simp [commit]
@[simp] theorem commit_mem (f' : FLatch) (d' : DLatch) (s : State) : (commit f' d' s).mem = applyWrite s.mem (memoryStage s.cfg s.mem s.e).write := by
  simp [commit]
@[simp] theorem commit_halted (f' : FLatch) (d' : DLatch) (s : State) : (commit f' d' s).halted = s.halted := by
  simp [commit]
@[simp] theorem commit_fetchFault (f' : FLatch) (d' : DLatch) (s : State) : (commit f' d' s).fetchFault = s.fetchFault := by
  simp [commit]
theorem commit_dataFaults (f' : FLatch) (d' : DLatch) (s : State) :
    (commit f' d' s).dataFaults =
      s.dataFaults ++ ((memoryStage s.cfg s.mem s.e).fault.map (PendingFault.stamp s.cycleCount)).toList :=
  logFault_dataFaults _ _
@[simp] theorem commit_cycleCount (f' : FLatch) (d' : DLatch) (s : State) : (commit f' d' s).cycleCount = s.cycleCount := by
  simp [commit]
@[simp] theorem commit_freezeIn (f' : FLatch) (d' : DLatch) (s : State) : (commit f' d' s).freezeIn = s.freezeIn := by
  simp [commit]

/-! ## Reads that an update keeps -/

@[simp] theorem readReg_tick (s : State) (r : RegIdx) : s.tick.readReg r = s.readReg r := rfl
@[simp] theorem readReg_dropFreeze (s : State) (r : RegIdx) : s.dropFreeze.readReg r = s.readReg r := rfl
@[simp] theorem fetchAddr_tick (s : State) : fetchAddr s.tick = fetchAddr s := rfl
@[simp] theorem fetchAddr_dropFreeze (s : State) : fetchAddr s.dropFreeze = fetchAddr s := rfl
@[simp] theorem fetchStage_tick (s : State) : fetchStage s.tick = fetchStage s := rfl
@[simp] theorem fetchStage_dropFreeze (s : State) : fetchStage s.dropFreeze = fetchStage s := rfl
@[simp] theorem squashes_dropFreeze (s : State) : squashes s.dropFreeze = squashes s := rfl
@[simp] theorem stalls_dropFreeze (s : State) : stalls s.dropFreeze = stalls s := rfl
@[simp] theorem pendingWrite_dropFreeze (s : State) (r : RegIdx) : pendingWrite s.dropFreeze r = pendingWrite s r := rfl

end Sys2Proof.Machine
end

