-- ==== Sys2Proof/Laws/Ops.lean ====
section
/-! SUPPORT. The laws of the shared operations: the register file, memory and its canonical form, and the bus. -/

namespace Sys2Proof.Machine

/-! ## The register file -/

@[simp] theorem readFile_zero (x : Vector Word 31) : readFile x 0#5 = 0#32 := rfl

@[simp] theorem writeFile_zero (x : Vector Word 31) (v : Word) : writeFile x 0#5 v = x := rfl

theorem regSlot_inj {i j : RegIdx} (hi : i ≠ 0#5) (hj : j ≠ 0#5) (h : i.toNat - 1 = j.toNat - 1) : i = j := by
  have hi' : i.toNat ≠ 0 := fun h => hi (BitVec.eq_of_toNat_eq h)
  have hj' : j.toNat ≠ 0 := fun h => hj (BitVec.eq_of_toNat_eq h)
  exact BitVec.eq_of_toNat_eq (by omega)

theorem readFile_writeFile_self (x : Vector Word 31) {i : RegIdx} (hi : i ≠ 0#5) (v : Word) :
    readFile (writeFile x i v) i = v := by
  simp [readFile, writeFile, hi]

theorem readFile_writeFile_ne (x : Vector Word 31) {i j : RegIdx} (h : j ≠ i) (v : Word) :
    readFile (writeFile x i v) j = readFile x j := by
  by_cases hi : i = 0#5
  · simp [writeFile, hi]
  · by_cases hj : j = 0#5
    · simp [readFile, hj]
    · have : i.toNat - 1 ≠ j.toNat - 1 := fun e => h (regSlot_inj hi hj e).symm
      simp [readFile, writeFile, hi, hj, this]

/-- Reading any register after WriteBack (R178). -/
theorem readFile_writeBack (x : Vector Word 31) (m : MLatch) (r : RegIdx) :
    readFile (writeBack x m) r =
      if m.wbValid = true ∧ m.rd ≠ 0#5 ∧ r = m.rd then m.wbValue else readFile x r := by
  unfold writeBack
  by_cases hv : m.wbValid = true
  · by_cases h0 : m.rd = 0#5
    · simp [hv, h0]
    · by_cases hr : r = m.rd
      · subst hr; simp [hv, h0, readFile_writeFile_self]
      · simp [hv, hr, readFile_writeFile_ne]
  · simp [hv]

/-! ## Bytes of memory -/

theorem readByte_of_lt {m : Memory} {a : Nat} (h : ∀ c ∈ m, a < c.1) : Memory.readByte m a = Memory.blank := by
  induction m with
  | nil => rfl
  | cons c m ih =>
    obtain ⟨k, v⟩ := c
    have hk : a < k := h (k, v) (by simp)
    simp only [Memory.readByte]
    rw [if_neg (by omega)]
    exact ih fun c hc => h c (List.mem_cons_of_mem _ hc)

theorem wf_tail {c : Host.Cell} {m : Memory} (h : Memory.wf (c :: m)) : Memory.wf m :=
  ⟨h.1.tail, fun d hd => h.2 d (List.mem_cons_of_mem _ hd)⟩

theorem wf_head_lt {c : Host.Cell} {m : Memory} (h : Memory.wf (c :: m)) : ∀ d ∈ m, c.1 < d.1 :=
  fun _ hd => List.rel_of_pairwise_cons h.1 hd

theorem readByte_writeByte {m : Memory} (h : Memory.wf m) (a : Nat) (b : Byte) (a' : Nat) :
    Memory.readByte (Memory.writeByte m a b) a' = if a' = a then b else Memory.readByte m a' := by
  induction m with
  | nil =>
    by_cases hb : b = Memory.blank <;> by_cases ha : a' = a <;>
      simp [Memory.writeByte, Memory.readByte, hb, ha, eq_comm]
    omega
  | cons c m ih =>
    obtain ⟨k, v⟩ := c
    have hlt := wf_head_lt h
    simp only [Memory.writeByte]
    split
    · split
      · by_cases ha : a' = a
        · subst ha
          simp only [if_true, ‹b = Memory.blank›]
          exact readByte_of_lt (by
            intro c hc
            rcases List.mem_cons.1 hc with rfl | hc
            · assumption
            · have := hlt c hc
              simp only at this
              omega)
        · simp [ha]
      · by_cases ha : a' = a
        · simp [Memory.readByte, ha]
        · rw [Memory.readByte, if_neg (by omega), if_neg ha]
    · split
      · next hak =>
        subst hak
        split
        · by_cases ha : a' = a
          · subst ha
            simp only [if_true, ‹b = Memory.blank›]
            exact readByte_of_lt hlt
          · rw [if_neg ha, Memory.readByte, if_neg (by omega)]
        · by_cases ha : a' = a
          · simp [Memory.readByte, ha]
          · rw [if_neg ha, Memory.readByte, Memory.readByte, if_neg (by omega), if_neg (by omega)]
      · by_cases hk : k = a'
        · subst hk
          rw [Memory.readByte, if_pos rfl, if_neg (by omega), Memory.readByte, if_pos rfl]
        · rw [Memory.readByte, if_neg hk, ih (wf_tail h), Memory.readByte, if_neg hk]

theorem mem_writeByte {m : Memory} {a : Nat} {b : Byte} {c : Host.Cell} (h : c ∈ Memory.writeByte m a b) :
    c = (a, b) ∨ c ∈ m := by
  induction m with
  | nil =>
    simp only [Memory.writeByte] at h
    split at h
    · simp at h
    · simpa using h
  | cons d m ih =>
    obtain ⟨k, v⟩ := d
    simp only [Memory.writeByte] at h
    split at h
    · split at h
      · exact .inr h
      · simpa using h
    · split at h
      · split at h
        · exact .inr (List.mem_cons_of_mem _ h)
        · rcases List.mem_cons.1 h with h | h
          · exact .inl h
          · exact .inr (List.mem_cons_of_mem _ h)
      · rcases List.mem_cons.1 h with h | h
        · exact .inr (h ▸ List.mem_cons_self)
        · rcases ih h with h | h
          · exact .inl h
          · exact .inr (List.mem_cons_of_mem _ h)

/-- Writing a byte keeps the canonical form. -/
theorem wf_writeByte {m : Memory} (h : Memory.wf m) (a : Nat) (b : Byte) : Memory.wf (Memory.writeByte m a b) := by
  induction m with
  | nil =>
    simp only [Memory.writeByte]
    split
    · exact h
    · next hb => exact ⟨by simp, by simpa using hb⟩
  | cons c m ih =>
    obtain ⟨k, v⟩ := c
    have hlt := wf_head_lt h
    simp only [Memory.writeByte]
    split
    · split
      · exact h
      · next hak hb =>
        refine ⟨List.Pairwise.cons ?_ h.1, ?_⟩
        · intro d hd
          rcases List.mem_cons.1 hd with rfl | hd
          · exact hak
          · have := hlt d hd
            simp only at this ⊢
            omega
        · intro d hd
          rcases List.mem_cons.1 hd with rfl | hd
          · exact hb
          · exact h.2 d hd
    · split
      · next hak =>
        subst hak
        split
        · exact wf_tail h
        · next hb =>
          refine ⟨List.Pairwise.cons (fun d hd => hlt d hd) (wf_tail h).1, ?_⟩
          intro d hd
          rcases List.mem_cons.1 hd with rfl | hd
          · exact hb
          · exact (wf_tail h).2 d hd
      · next h1 h2 =>
        have ih' := ih (wf_tail h)
        refine ⟨List.Pairwise.cons ?_ ih'.1, ?_⟩
        · intro d hd
          rcases mem_writeByte hd with rfl | hd
          · simp only
            omega
          · exact hlt d hd
        · intro d hd
          rcases List.mem_cons.1 hd with rfl | hd
          · exact h.2 _ List.mem_cons_self
          · exact ih'.2 d hd

/-- Writing bytes keeps the canonical form. -/
theorem wf_writeBytes {m : Memory} (h : Memory.wf m) (a : Nat) (bs : List Byte) : Memory.wf (Memory.writeBytes m a bs) := by
  induction bs generalizing m a with
  | nil => exact h
  | cons b bs ih => exact ih (wf_writeByte h a b) (a + 1)

/-- Applying a cycle's staged write keeps the canonical form. -/
theorem wf_applyWrite {m : Memory} (h : Memory.wf m) (w : Option StagedWrite) : Memory.wf (applyWrite m w) := by
  cases w with
  | none => exact h
  | some w => exact wf_writeBytes h _ _

/-- Placing a word keeps the canonical form. -/
theorem wf_placeWord {m : Memory} (h : Memory.wf m) (c : Config) (a w : Word) : Memory.wf (placeWord c m a w) := by
  unfold placeWord
  split
  · exact wf_writeBytes h _ _
  · exact h

/-- Reset memory is in the canonical form. -/
theorem wf_reset : Memory.wf State.reset.mem := by decide

/-- What a list of bytes written at `a` reads as. -/
theorem readByte_writeBytes {m : Memory} (h : Memory.wf m) (a : Nat) (bs : List Byte) (a' : Nat) :
    Memory.readByte (Memory.writeBytes m a bs) a' =
      if a ≤ a' ∧ a' < a + bs.length then bs.getD (a' - a) Memory.blank else Memory.readByte m a' := by
  induction bs generalizing m a with
  | nil =>
    rw [if_neg (by simp)]
    rfl
  | cons b bs ih =>
    rw [Memory.writeBytes, ih (wf_writeByte h a b), readByte_writeByte h]
    by_cases h1 : a' = a
    · subst h1
      simp
    · by_cases h2 : a + 1 ≤ a' ∧ a' < a + 1 + bs.length
      · have h3 : a ≤ a' ∧ a' < a + (b :: bs).length := by simp only [List.length_cons]; omega
        have h4 : a' - a = (a' - (a + 1)) + 1 := by omega
        rw [if_pos h2, if_pos h3, h4]
        simp
      · have h3 : ¬ (a ≤ a' ∧ a' < a + (b :: bs).length) := by simp only [List.length_cons]; omega
        rw [if_neg h2, if_neg h3, if_neg h1]

@[simp] theorem length_lowBytes (v : Word) (n : Width) : (lowBytes v n).length = n.bytes := by cases n <;> rfl

/-! ## The bus -/

theorem busRead_ok_iff {c : Config} {m : Memory} {a : Word} {n : Width} {v : Word} :
    busRead c m a n = .ok v ↔ aligned a n = true ∧ deviceAt c a ≠ .unmapped ∧ v = Memory.readLE m a.toNat n := by
  unfold busRead
  cases aligned a n <;> cases deviceAt c a <;> simp [eq_comm]

theorem busWrite_ok_iff {c : Config} {a : Word} {n : Width} {v : Word} {w : StagedWrite} :
    busWrite c a n v = .ok w ↔
      aligned a n = true ∧ deviceAt c a = .ram ∧ w = { addr := a.toNat, bytes := lowBytes v n } := by
  unfold busWrite
  cases aligned a n <;> cases deviceAt c a <;> simp [eq_comm]

/-! ## Alignment, regions and configurations -/

theorem aligned_iff {a : Word} {n : Width} : aligned a n = true ↔ a.toNat % n.bytes = 0 := by
  cases n
  · simp [aligned, Width.bytes, Nat.mod_one]
  · simp only [aligned, Width.bytes, beq_iff_eq]
    exact ⟨fun h => by simpa using congrArg BitVec.toNat h, fun h => BitVec.eq_of_toNat_eq (by simpa using h)⟩
  · simp only [aligned, Width.bytes, beq_iff_eq]
    exact ⟨fun h => by simpa using congrArg BitVec.toNat h, fun h => BitVec.eq_of_toNat_eq (by simpa using h)⟩

theorem inRegion_iff {r : Region} {a : Word} :
    inRegion r a = true ↔ r.base.toNat ≤ a.toNat ∧ a.toNat < r.base.toNat + r.size := by
  simp only [inRegion, Bool.and_eq_true, decide_eq_true_eq]

theorem regionOk_iff {r : Region} :
    regionOk r = true ↔
      r.base.toNat % 4 = 0 ∧ r.size % 4 = 0 ∧ 0 < r.size ∧ r.base.toNat + r.size ≤ 2 ^ 32 := by
  simp [regionOk, and_assoc]

theorem disjointRegions_iff {r q : Region} :
    disjointRegions r q = true ↔
      r.base.toNat + r.size ≤ q.base.toNat ∨ q.base.toNat + q.size ≤ r.base.toNat := by
  simp only [disjointRegions, Bool.or_eq_true, decide_eq_true_eq]

theorem pairwiseDisjoint_iff {l : List Region} :
    pairwiseDisjoint l = true ↔ l.Pairwise (fun r q => disjointRegions r q = true) := by
  induction l with
  | nil => simp [pairwiseDisjoint]
  | cons a l ih => simp [pairwiseDisjoint, ih]

theorem configOk_iff {c : Config} :
    configOk c = true ↔
      (∀ r ∈ romRegion c :: c.ramRegions, regionOk r = true) ∧
      (romRegion c :: c.ramRegions).Pairwise (fun r q => disjointRegions r q = true) ∧ c.ramRegions ≠ [] := by
  simp only [configOk, Bool.and_eq_true, pairwiseDisjoint_iff, List.all_eq_true, Bool.not_eq_true',
    List.isEmpty_eq_false_iff, and_assoc]

theorem deviceAt_rom_iff {c : Config} {a : Word} : deviceAt c a = .rom ↔ inRegion (romRegion c) a = true := by
  unfold deviceAt
  by_cases h : inRegion (romRegion c) a = true
  · simp [h]
  · rw [if_neg h]
    split <;> simp [h]

/-- The bytes of an aligned access do not wrap. -/
theorem toNat_add_of_aligned {a : Word} {n : Width} (h : aligned a n = true) {k : Nat} (hk : k < n.bytes) :
    (a + BitVec.ofNat 32 k).toNat = a.toNat + k := by
  rw [aligned_iff] at h
  have := a.isLt
  simp only [BitVec.toNat_add, BitVec.toNat_ofNat]
  cases n <;> simp only [Width.bytes] at * <;> omega

/-- Every byte of an aligned access lies in the same regions as its first (R73). -/
theorem inRegion_of_aligned {r : Region} (hr : regionOk r = true) {a : Word} {n : Width} (h : aligned a n = true) {k : Nat}
    (hk : k < n.bytes) : inRegion r (a + BitVec.ofNat 32 k) = inRegion r a := by
  rw [Bool.eq_iff_iff, inRegion_iff, inRegion_iff, toNat_add_of_aligned h hk]
  rw [regionOk_iff] at hr
  rw [aligned_iff] at h
  cases n <;> simp only [Width.bytes] at * <;> omega

/-- Every byte of an aligned access routes to the same device (R73, R74). -/
theorem deviceAt_of_aligned {c : Config} (hc : configOk c = true) {a : Word} {n : Width} (h : aligned a n = true) {k : Nat}
    (hk : k < n.bytes) : deviceAt c (a + BitVec.ofNat 32 k) = deviceAt c a := by
  have hr := (configOk_iff.1 hc).1
  have h1 := inRegion_of_aligned (hr _ List.mem_cons_self) h hk
  have h2 : c.ramRegions.any (fun r => inRegion r (a + BitVec.ofNat 32 k)) = c.ramRegions.any (fun r => inRegion r a) := by
    rw [Bool.eq_iff_iff, List.any_eq_true, List.any_eq_true]
    constructor <;> rintro ⟨r, hm, hi⟩ <;> refine ⟨r, hm, ?_⟩ <;>
      have := inRegion_of_aligned (hr r (List.mem_cons_of_mem _ hm)) h hk <;> simp_all
  simp only [deviceAt, h1, h2]

/-! ## The bytes of a value -/

/-- The `k`-th byte a store writes. -/
theorem getD_lowBytes (v : Word) (n : Width) {k : Nat} (hk : k < n.bytes) :
    (lowBytes v n).getD k Memory.blank = v.extractLsb' (8 * k) 8 := by
  cases n <;> simp only [Width.bytes] at hk <;> interval_cases k <;> rfl

/-- The bits a read returns. -/
theorem getLsbD_readLE (m : Memory) (a : Nat) (n : Width) (i : Nat) :
    (Memory.readLE m a n).getLsbD i =
      (decide (i < 8 * n.bytes) && (Memory.readByte m (a + i / 8)).getLsbD (i % 8)) := by
  by_cases h : i < 32
  · cases n
    · simp only [Memory.readLE, Width.bytes, BitVec.getLsbD_setWidth]
      interval_cases i <;> simp
    · simp only [Memory.readLE, Width.bytes, BitVec.getLsbD_setWidth, BitVec.getLsbD_append]
      interval_cases i <;> simp
    · simp only [Memory.readLE, Width.bytes, wordOfBytes, BitVec.getLsbD_cast, BitVec.getLsbD_append]
      interval_cases i <;> simp
  · have h8 : ¬ i < 8 * n.bytes := by cases n <;> simp [Width.bytes] <;> omega
    simp only [h8, decide_false, Bool.false_and]
    exact BitVec.getLsbD_of_ge _ _ (by omega)

/-- Reading back part of what a store wrote. -/
theorem readLE_writeBytes {m : Memory} (hm : Memory.wf m) (a : Nat) (n p : Width) (v : Word) {k : Nat}
    (hk : k + p.bytes ≤ n.bytes) :
    Memory.readLE (Memory.writeBytes m a (lowBytes v n)) (a + k) p =
      (v.extractLsb' (8 * k) (8 * p.bytes)).setWidth 32 := by
  apply BitVec.eq_of_getLsbD_eq
  intro i hi
  rw [getLsbD_readLE]
  simp only [BitVec.getLsbD_setWidth, BitVec.getLsbD_extractLsb', hi, decide_true, Bool.true_and]
  by_cases h : i < 8 * p.bytes
  · have hb : Memory.readByte (Memory.writeBytes m a (lowBytes v n)) (a + k + i / 8) = v.extractLsb' (8 * (k + i / 8)) 8 := by
      rw [readByte_writeBytes hm, if_pos ⟨by omega, by simp; omega⟩, ← getD_lowBytes v n (by omega)]
      congr 1
      omega
    have hlt : i % 8 < 8 := by omega
    simp only [hb, h, hlt, decide_true, Bool.true_and, BitVec.getLsbD_extractLsb']
    congr 1
    omega
  · simp [h]

end Sys2Proof.Machine
end

