-- ==== Sys2Proof/Laws/Exec.lean ====
section
/-! SUPPORT. What a cycle can do, said once: the D latch each instruction gives, and the cases of `advance`, `runCycle` and
`step`. -/

namespace Sys2Proof.Machine

/-- The D latch that an instruction's meaning gives to the shared cycle. -/
def decodedLatch (i : Instr) (s : State) : DLatch :=
  match i with
  | .add rd rs1 rs2 => aluRegLatch (rawR 0b0000000#7 rs2 rs1 0b000#3 rd) s
  | .sub rd rs1 rs2 => aluRegLatch (rawR 0b0100000#7 rs2 rs1 0b000#3 rd) s
  | .sll rd rs1 rs2 => aluRegLatch (rawR 0b0000000#7 rs2 rs1 0b001#3 rd) s
  | .slt rd rs1 rs2 => aluRegLatch (rawR 0b0000000#7 rs2 rs1 0b010#3 rd) s
  | .sltu rd rs1 rs2 => aluRegLatch (rawR 0b0000000#7 rs2 rs1 0b011#3 rd) s
  | .xor rd rs1 rs2 => aluRegLatch (rawR 0b0000000#7 rs2 rs1 0b100#3 rd) s
  | .srl rd rs1 rs2 => aluRegLatch (rawR 0b0000000#7 rs2 rs1 0b101#3 rd) s
  | .sra rd rs1 rs2 => aluRegLatch (rawR 0b0100000#7 rs2 rs1 0b101#3 rd) s
  | .or rd rs1 rs2 => aluRegLatch (rawR 0b0000000#7 rs2 rs1 0b110#3 rd) s
  | .and rd rs1 rs2 => aluRegLatch (rawR 0b0000000#7 rs2 rs1 0b111#3 rd) s
  | .addi rd rs1 imm => aluImmLatch (rawI imm rs1 0b000#3 rd) (sext12 imm) s
  | .slti rd rs1 imm => aluImmLatch (rawI imm rs1 0b010#3 rd) (sext12 imm) s
  | .sltiu rd rs1 imm => aluImmLatch (rawI imm rs1 0b011#3 rd) (sext12 imm) s
  | .xori rd rs1 imm => aluImmLatch (rawI imm rs1 0b100#3 rd) (sext12 imm) s
  | .ori rd rs1 imm => aluImmLatch (rawI imm rs1 0b110#3 rd) (sext12 imm) s
  | .andi rd rs1 imm => aluImmLatch (rawI imm rs1 0b111#3 rd) (sext12 imm) s
  | .slli rd rs1 shamt => aluImmLatch (rawR 0b0000000#7 shamt rs1 0b001#3 rd) (sext12 (shiftField 0b0000000#7 shamt)) s
  | .srli rd rs1 shamt => aluImmLatch (rawR 0b0000000#7 shamt rs1 0b101#3 rd) (sext12 (shiftField 0b0000000#7 shamt)) s
  | .srai rd rs1 shamt => aluImmLatch (rawR 0b0100000#7 shamt rs1 0b101#3 rd) (sext12 (shiftField 0b0100000#7 shamt)) s
  | .lb rd rs1 imm => loadLatch (rawI imm rs1 0b000#3 rd) (sext12 imm) s
  | .lh rd rs1 imm => loadLatch (rawI imm rs1 0b001#3 rd) (sext12 imm) s
  | .lw rd rs1 imm => loadLatch (rawI imm rs1 0b010#3 rd) (sext12 imm) s
  | .lbu rd rs1 imm => loadLatch (rawI imm rs1 0b100#3 rd) (sext12 imm) s
  | .lhu rd rs1 imm => loadLatch (rawI imm rs1 0b101#3 rd) (sext12 imm) s
  | .sb rs2 rs1 imm => storeLatch (rawS imm rs2 rs1 0b000#3) (sext12 imm) s
  | .sh rs2 rs1 imm => storeLatch (rawS imm rs2 rs1 0b001#3) (sext12 imm) s
  | .sw rs2 rs1 imm => storeLatch (rawS imm rs2 rs1 0b010#3) (sext12 imm) s
  | .lui rd imm20 => luiLatch (rawU imm20 rd) (upper20 imm20) s
  | .jal rd offset => jalLatch (rawJ offset rd) (sext21 offset) s
  | .jalr rd rs1 imm => jalrLatch (rawI imm rs1 0b000#3 rd) (sext12 imm) s
  | .beq rs1 rs2 offset => branchLatch (rawB offset rs2 rs1 0b000#3) (sext13 offset) (condEq (s.readReg rs1) (s.readReg rs2)) s
  | .bne rs1 rs2 offset => branchLatch (rawB offset rs2 rs1 0b001#3) (sext13 offset) (condNe (s.readReg rs1) (s.readReg rs2)) s
  | .blt rs1 rs2 offset => branchLatch (rawB offset rs2 rs1 0b100#3) (sext13 offset) (condLt (s.readReg rs1) (s.readReg rs2)) s
  | .bge rs1 rs2 offset => branchLatch (rawB offset rs2 rs1 0b101#3) (sext13 offset) (condGe (s.readReg rs1) (s.readReg rs2)) s
  | .bltu rs1 rs2 offset => branchLatch (rawB offset rs2 rs1 0b110#3) (sext13 offset) (condLtu (s.readReg rs1) (s.readReg rs2)) s
  | .bgeu rs1 rs2 offset => branchLatch (rawB offset rs2 rs1 0b111#3) (sext13 offset) (condGeu (s.readReg rs1) (s.readReg rs2)) s

/-- Every meaning is the shared cycle with the instruction's D latch. -/
theorem exec_eq (i : Instr) (s : State) : exec i s = .next (advance (decodedLatch i s) s) := by
  cases i <;> rfl

/-- The D latch does not depend on the host's inputs or the count. -/
theorem decodedLatch_dropFreeze (i : Instr) (s : State) : decodedLatch i s.dropFreeze = decodedLatch i s := by
  cases i <;> rfl

/-! ## `advance` -/

theorem fetchStage_ok {s : State} {w : Word} (h : s.fetches w) :
    fetchStage s = .ok { pc := fetchAddr s, pcPlus4 := fetchAddr s + 4#32, instruction := w } := by
  rw [State.fetches] at h
  simp [fetchStage, h]

theorem fetchStage_error {s : State} {k : BusError} (h : busRead s.cfg s.mem (fetchAddr s) .word = .error k) :
    fetchStage s = .error k := by
  simp [fetchStage, h]

/-- A cycle whose fetch succeeds commits. -/
theorem advance_of_fetches {s : State} {w : Word} (h : s.fetches w) (d' : DLatch) :
    advance d' s = commit { pc := fetchAddr s, pcPlus4 := fetchAddr s + 4#32, instruction := w } d' s.tick := by
  simp [advance, fetchStage_ok h]

/-- A cycle whose fetch fails halts, and changes nothing else but the count. -/
theorem advance_of_error {s : State} {k : BusError} (h : busRead s.cfg s.mem (fetchAddr s) .word = .error k) (d' : DLatch) :
    advance d' s = s.tick.raiseFetchFault k (fetchAddr s) := by
  simp [advance, fetchStage_error h]

/-- The two cases of `advance`. -/
theorem advance_cases (d' : DLatch) (s : State) :
    (∃ w, s.fetches w ∧
      advance d' s = commit { pc := fetchAddr s, pcPlus4 := fetchAddr s + 4#32, instruction := w } d' s.tick) ∨
    (∃ k, busRead s.cfg s.mem (fetchAddr s) .word = .error k ∧
      advance d' s = s.tick.raiseFetchFault k (fetchAddr s)) := by
  rcases h : busRead s.cfg s.mem (fetchAddr s) .word with k | w
  · exact .inr ⟨k, rfl, advance_of_error h d'⟩
  · exact .inl ⟨w, h, advance_of_fetches h d'⟩

@[simp] theorem advance_cfg (d' : DLatch) (s : State) : (advance d' s).cfg = s.cfg := by
  rcases advance_cases d' s with ⟨w, -, h⟩ | ⟨k, -, h⟩ <;> simp [h]

@[simp] theorem advance_cycleCount (d' : DLatch) (s : State) : (advance d' s).cycleCount = s.cycleCount + 1 := by
  rcases advance_cases d' s with ⟨w, -, h⟩ | ⟨k, -, h⟩ <;> simp [h]

@[simp] theorem advance_freezeIn (d' : DLatch) (s : State) : (advance d' s).freezeIn = s.freezeIn := by
  rcases advance_cases d' s with ⟨w, -, h⟩ | ⟨k, -, h⟩ <;> simp [h]

/-! ## The host's inputs do not enter a cycle -/

/-- The host's inputs pass by a cycle that advances. -/
theorem advance_inputs (d' : DLatch) (s : State) (q : List Bool) :
    advance d' { s with freezeIn := q } = { advance d' s with freezeIn := q } := by
  have e : fetchStage { s with freezeIn := q } = fetchStage s := rfl
  unfold advance
  rw [e]
  cases fetchStage s with
  | error k => rfl
  | ok f' =>
    simp only [commit, State.tick]
    unfold State.logFault
    split <;> rfl

/-- The host's inputs pass by a stalled cycle. -/
theorem stallCycle_inputs (s : State) (q : List Bool) :
    stallCycle { s with freezeIn := q } = { stallCycle s with freezeIn := q } := by
  simp only [stallCycle, commit, State.tick]
  unfold State.logFault
  split <;> rfl

/-- The host's inputs do not enter the D latch. -/
theorem decodedLatch_inputs (i : Instr) (s : State) (q : List Bool) :
    decodedLatch i { s with freezeIn := q } = decodedLatch i s := by
  cases i <;> rfl

/-! ## `runCycle` and `step` -/

/-- A running cycle is a stalled one, or one that is not stalled with some Decode output: a bubble when the word is squashed or
unrecognised, else the latch of the instruction it decodes to. -/
theorem runCycle_cases (s : State) :
    (stalls s = true ∧ runCycle s = .next (stallCycle s)) ∨
    (stalls s = false ∧ ∃ d', runCycle s = .next (advance d' s) ∧
      (d' = DLatch.bubble ∨
        ∃ i, squashes s = false ∧ decode s.f.instruction = .instr i ∧ d' = decodedLatch i s)) := by
  unfold runCycle
  by_cases hq : squashes s = true
  · have : stalls s = false := by simp [stalls, hq]
    exact .inr ⟨this, DLatch.bubble, by simp [hq], .inl rfl⟩
  · cases hd : decode s.f.instruction with
    | reject why =>
      have : stalls s = false := by simp [stalls, hazard, hd]
      exact .inr ⟨this, DLatch.bubble, by simp [hq], .inl rfl⟩
    | instr i =>
      by_cases hs : stalls s = true
      · exact .inl ⟨hs, by simp [hq, hs]⟩
      · exact .inr ⟨by simpa using hs, decodedLatch i s, by simp [hq, hs, exec_eq], .inr ⟨i, by simpa using hq, rfl, rfl⟩⟩

theorem runs_iff {s : State} : s.runs = true ↔ s.halted = false ∧ nextFreeze s = false := by
  simp [State.runs]

/-- A step of a machine that runs is a running cycle, the host's input consumed. -/
theorem step_of_runs {s : State} (h : s.runs = true) : step s = runCycle s.dropFreeze := by
  obtain ⟨h1, h2⟩ := runs_iff.1 h
  simp [step, cycle, h1, h2]

/-- What a step can do. -/
theorem step_cases (s : State) :
    (s.halted = true ∧ step s = .next s) ∨
    (s.halted = false ∧ nextFreeze s = true ∧ step s = .next s.dropFreeze.tick) ∨
    (s.runs = true ∧ stalls s = true ∧ step s = .next (stallCycle s.dropFreeze)) ∨
    (s.runs = true ∧ stalls s = false ∧ ∃ d', step s = .next (advance d' s.dropFreeze) ∧
      (d' = DLatch.bubble ∨
        ∃ i, squashes s = false ∧ decode s.f.instruction = .instr i ∧ d' = decodedLatch i s)) := by
  by_cases hh : s.halted = true
  · exact .inl ⟨hh, by simp [step, hh]⟩
  · have hh' : s.halted = false := by simpa using hh
    by_cases hf : nextFreeze s = true
    · exact .inr (.inl ⟨hh', hf, by simp [step, cycle, hh', hf]⟩)
    · have hr : s.runs = true := runs_iff.2 ⟨hh', by simpa using hf⟩
      rcases runCycle_cases s.dropFreeze with ⟨h1, h2⟩ | ⟨h1, d', h2, h3⟩
      · exact .inr (.inr (.inl ⟨hr, h1, by rw [step_of_runs hr, h2]⟩))
      · refine .inr (.inr (.inr ⟨hr, h1, d', by rw [step_of_runs hr, h2], ?_⟩))
        rcases h3 with h3 | ⟨i, h4, h5, h6⟩
        · exact .inl h3
        · exact .inr ⟨i, h4, h5, by rw [h6, decodedLatch_dropFreeze]⟩

end Sys2Proof.Machine
end

