-- ==== Sys2Proof/Laws/PerInstr.lean ====
section
/-! SUPPORT. Statements made instruction by instruction (LAWS.json). EncodingMatches: the word of an instruction belongs to the
row of the opcode table (R128) that bears its mnemonic. -/

namespace Sys2Proof

/-- Masking an R-format word to opcode, funct3 and funct7. -/
theorem encR_masked (f7 : BitVec 7) (rs2 rs1 : RegIdx) (f3 : BitVec 3) (rd : RegIdx) (op : BitVec 7) :
    encR f7 rs2 rs1 f3 rd op &&& 0xFE00707F#32 = encR f7 0#5 0#5 f3 0#5 op := by
  apply BitVec.eq_of_getLsbD_eq
  intro i hi
  simp only [encR, BitVec.getLsbD_and, BitVec.getLsbD_cast, BitVec.getLsbD_append]
  interval_cases i <;> simp

/-- Masking an I-format word to opcode and funct3. -/
theorem encI_masked (imm : BitVec 12) (rs1 : RegIdx) (f3 : BitVec 3) (rd : RegIdx) (op : BitVec 7) :
    encI imm rs1 f3 rd op &&& 0x0000707F#32 = encI 0#12 0#5 f3 0#5 op := by
  apply BitVec.eq_of_getLsbD_eq
  intro i hi
  simp only [encI, BitVec.getLsbD_and, BitVec.getLsbD_cast, BitVec.getLsbD_append]
  interval_cases i <;> simp

/-- Masking an S-format word to opcode and funct3. -/
theorem encS_masked (imm : BitVec 12) (rs2 rs1 : RegIdx) (f3 : BitVec 3) (op : BitVec 7) :
    encS imm rs2 rs1 f3 op &&& 0x0000707F#32 = encS 0#12 0#5 0#5 f3 op := by
  apply BitVec.eq_of_getLsbD_eq
  intro i hi
  simp only [encS, BitVec.getLsbD_and, BitVec.getLsbD_cast, BitVec.getLsbD_append]
  interval_cases i <;> simp

/-- Masking a B-format word to opcode and funct3. -/
theorem encB_masked (offset : BitVec 13) (rs2 rs1 : RegIdx) (f3 : BitVec 3) (op : BitVec 7) :
    encB offset rs2 rs1 f3 op &&& 0x0000707F#32 = encB 0#13 0#5 0#5 f3 op := by
  apply BitVec.eq_of_getLsbD_eq
  intro i hi
  simp only [encB, BitVec.getLsbD_and, BitVec.getLsbD_cast, BitVec.getLsbD_append]
  interval_cases i <;> simp

/-- Masking a U-format word to its opcode. -/
theorem encU_masked (imm : BitVec 20) (rd : RegIdx) (op : BitVec 7) :
    encU imm rd op &&& 0x0000007F#32 = encU 0#20 0#5 op := by
  apply BitVec.eq_of_getLsbD_eq
  intro i hi
  simp only [encU, BitVec.getLsbD_and, BitVec.getLsbD_cast, BitVec.getLsbD_append]
  interval_cases i <;> simp

/-- Masking a J-format word to its opcode. -/
theorem encJ_masked (offset : BitVec 21) (rd : RegIdx) (op : BitVec 7) :
    encJ offset rd op &&& 0x0000007F#32 = encJ 0#21 0#5 op := by
  apply BitVec.eq_of_getLsbD_eq
  intro i hi
  simp only [encJ, BitVec.getLsbD_and, BitVec.getLsbD_cast, BitVec.getLsbD_append]
  interval_cases i <;> simp

/-- The instruction's word is selected by a row with the instruction's mnemonic. -/
def Laws.EncodingMatches.Statement (i : Instr) : Prop :=
  ∃ r ∈ opcodeTable, r.mnemonic = i.mnemonic ∧ encode i &&& r.mask = r.pattern

theorem Laws.EncodingMatches.add (rd rs1 rs2 : RegIdx) :
    Laws.EncodingMatches.Statement (.add rd rs1 rs2) :=
  ⟨⟨"ADD", 0x00000033#32, 0xFE00707F#32⟩, by simp [opcodeTable, aluRegTable], rfl, (encR_masked ..).trans (by decide)⟩

theorem Laws.EncodingMatches.sub (rd rs1 rs2 : RegIdx) :
    Laws.EncodingMatches.Statement (.sub rd rs1 rs2) :=
  ⟨⟨"SUB", 0x40000033#32, 0xFE00707F#32⟩, by simp [opcodeTable, aluRegTable], rfl, (encR_masked ..).trans (by decide)⟩

theorem Laws.EncodingMatches.sll (rd rs1 rs2 : RegIdx) :
    Laws.EncodingMatches.Statement (.sll rd rs1 rs2) :=
  ⟨⟨"SLL", 0x00001033#32, 0xFE00707F#32⟩, by simp [opcodeTable, aluRegTable], rfl, (encR_masked ..).trans (by decide)⟩

theorem Laws.EncodingMatches.slt (rd rs1 rs2 : RegIdx) :
    Laws.EncodingMatches.Statement (.slt rd rs1 rs2) :=
  ⟨⟨"SLT", 0x00002033#32, 0xFE00707F#32⟩, by simp [opcodeTable, aluRegTable], rfl, (encR_masked ..).trans (by decide)⟩

theorem Laws.EncodingMatches.sltu (rd rs1 rs2 : RegIdx) :
    Laws.EncodingMatches.Statement (.sltu rd rs1 rs2) :=
  ⟨⟨"SLTU", 0x00003033#32, 0xFE00707F#32⟩, by simp [opcodeTable, aluRegTable], rfl, (encR_masked ..).trans (by decide)⟩

theorem Laws.EncodingMatches.xor (rd rs1 rs2 : RegIdx) :
    Laws.EncodingMatches.Statement (.xor rd rs1 rs2) :=
  ⟨⟨"XOR", 0x00004033#32, 0xFE00707F#32⟩, by simp [opcodeTable, aluRegTable], rfl, (encR_masked ..).trans (by decide)⟩

theorem Laws.EncodingMatches.srl (rd rs1 rs2 : RegIdx) :
    Laws.EncodingMatches.Statement (.srl rd rs1 rs2) :=
  ⟨⟨"SRL", 0x00005033#32, 0xFE00707F#32⟩, by simp [opcodeTable, aluRegTable], rfl, (encR_masked ..).trans (by decide)⟩

theorem Laws.EncodingMatches.sra (rd rs1 rs2 : RegIdx) :
    Laws.EncodingMatches.Statement (.sra rd rs1 rs2) :=
  ⟨⟨"SRA", 0x40005033#32, 0xFE00707F#32⟩, by simp [opcodeTable, aluRegTable], rfl, (encR_masked ..).trans (by decide)⟩

theorem Laws.EncodingMatches.or (rd rs1 rs2 : RegIdx) :
    Laws.EncodingMatches.Statement (.or rd rs1 rs2) :=
  ⟨⟨"OR", 0x00006033#32, 0xFE00707F#32⟩, by simp [opcodeTable, aluRegTable], rfl, (encR_masked ..).trans (by decide)⟩

theorem Laws.EncodingMatches.and (rd rs1 rs2 : RegIdx) :
    Laws.EncodingMatches.Statement (.and rd rs1 rs2) :=
  ⟨⟨"AND", 0x00007033#32, 0xFE00707F#32⟩, by simp [opcodeTable, aluRegTable], rfl, (encR_masked ..).trans (by decide)⟩

theorem Laws.EncodingMatches.addi (rd rs1 : RegIdx) (imm : BitVec 12) :
    Laws.EncodingMatches.Statement (.addi rd rs1 imm) :=
  ⟨⟨"ADDI", 0x00000013#32, 0x0000707F#32⟩, by simp [opcodeTable, aluImmTable], rfl, (encI_masked ..).trans (by decide)⟩

theorem Laws.EncodingMatches.slti (rd rs1 : RegIdx) (imm : BitVec 12) :
    Laws.EncodingMatches.Statement (.slti rd rs1 imm) :=
  ⟨⟨"SLTI", 0x00002013#32, 0x0000707F#32⟩, by simp [opcodeTable, aluImmTable], rfl, (encI_masked ..).trans (by decide)⟩

theorem Laws.EncodingMatches.sltiu (rd rs1 : RegIdx) (imm : BitVec 12) :
    Laws.EncodingMatches.Statement (.sltiu rd rs1 imm) :=
  ⟨⟨"SLTIU", 0x00003013#32, 0x0000707F#32⟩, by simp [opcodeTable, aluImmTable], rfl, (encI_masked ..).trans (by decide)⟩

theorem Laws.EncodingMatches.xori (rd rs1 : RegIdx) (imm : BitVec 12) :
    Laws.EncodingMatches.Statement (.xori rd rs1 imm) :=
  ⟨⟨"XORI", 0x00004013#32, 0x0000707F#32⟩, by simp [opcodeTable, aluImmTable], rfl, (encI_masked ..).trans (by decide)⟩

theorem Laws.EncodingMatches.ori (rd rs1 : RegIdx) (imm : BitVec 12) :
    Laws.EncodingMatches.Statement (.ori rd rs1 imm) :=
  ⟨⟨"ORI", 0x00006013#32, 0x0000707F#32⟩, by simp [opcodeTable, aluImmTable], rfl, (encI_masked ..).trans (by decide)⟩

theorem Laws.EncodingMatches.andi (rd rs1 : RegIdx) (imm : BitVec 12) :
    Laws.EncodingMatches.Statement (.andi rd rs1 imm) :=
  ⟨⟨"ANDI", 0x00007013#32, 0x0000707F#32⟩, by simp [opcodeTable, aluImmTable], rfl, (encI_masked ..).trans (by decide)⟩

theorem Laws.EncodingMatches.slli (rd rs1 : RegIdx) (shamt : BitVec 5) :
    Laws.EncodingMatches.Statement (.slli rd rs1 shamt) :=
  ⟨⟨"SLLI", 0x00001013#32, 0xFE00707F#32⟩, by simp [opcodeTable, aluImmTable], rfl, (encR_masked ..).trans (by decide)⟩

theorem Laws.EncodingMatches.srli (rd rs1 : RegIdx) (shamt : BitVec 5) :
    Laws.EncodingMatches.Statement (.srli rd rs1 shamt) :=
  ⟨⟨"SRLI", 0x00005013#32, 0xFE00707F#32⟩, by simp [opcodeTable, aluImmTable], rfl, (encR_masked ..).trans (by decide)⟩

theorem Laws.EncodingMatches.srai (rd rs1 : RegIdx) (shamt : BitVec 5) :
    Laws.EncodingMatches.Statement (.srai rd rs1 shamt) :=
  ⟨⟨"SRAI", 0x40005013#32, 0xFE00707F#32⟩, by simp [opcodeTable, aluImmTable], rfl, (encR_masked ..).trans (by decide)⟩

theorem Laws.EncodingMatches.lb (rd rs1 : RegIdx) (imm : BitVec 12) :
    Laws.EncodingMatches.Statement (.lb rd rs1 imm) :=
  ⟨⟨"LB", 0x00000003#32, 0x0000707F#32⟩, by simp [opcodeTable, loadStoreTable], rfl, (encI_masked ..).trans (by decide)⟩

theorem Laws.EncodingMatches.lh (rd rs1 : RegIdx) (imm : BitVec 12) :
    Laws.EncodingMatches.Statement (.lh rd rs1 imm) :=
  ⟨⟨"LH", 0x00001003#32, 0x0000707F#32⟩, by simp [opcodeTable, loadStoreTable], rfl, (encI_masked ..).trans (by decide)⟩

theorem Laws.EncodingMatches.lw (rd rs1 : RegIdx) (imm : BitVec 12) :
    Laws.EncodingMatches.Statement (.lw rd rs1 imm) :=
  ⟨⟨"LW", 0x00002003#32, 0x0000707F#32⟩, by simp [opcodeTable, loadStoreTable], rfl, (encI_masked ..).trans (by decide)⟩

theorem Laws.EncodingMatches.lbu (rd rs1 : RegIdx) (imm : BitVec 12) :
    Laws.EncodingMatches.Statement (.lbu rd rs1 imm) :=
  ⟨⟨"LBU", 0x00004003#32, 0x0000707F#32⟩, by simp [opcodeTable, loadStoreTable], rfl, (encI_masked ..).trans (by decide)⟩

theorem Laws.EncodingMatches.lhu (rd rs1 : RegIdx) (imm : BitVec 12) :
    Laws.EncodingMatches.Statement (.lhu rd rs1 imm) :=
  ⟨⟨"LHU", 0x00005003#32, 0x0000707F#32⟩, by simp [opcodeTable, loadStoreTable], rfl, (encI_masked ..).trans (by decide)⟩

theorem Laws.EncodingMatches.sb (rs2 rs1 : RegIdx) (imm : BitVec 12) :
    Laws.EncodingMatches.Statement (.sb rs2 rs1 imm) :=
  ⟨⟨"SB", 0x00000023#32, 0x0000707F#32⟩, by simp [opcodeTable, loadStoreTable], rfl, (encS_masked ..).trans (by decide)⟩

theorem Laws.EncodingMatches.sh (rs2 rs1 : RegIdx) (imm : BitVec 12) :
    Laws.EncodingMatches.Statement (.sh rs2 rs1 imm) :=
  ⟨⟨"SH", 0x00001023#32, 0x0000707F#32⟩, by simp [opcodeTable, loadStoreTable], rfl, (encS_masked ..).trans (by decide)⟩

theorem Laws.EncodingMatches.sw (rs2 rs1 : RegIdx) (imm : BitVec 12) :
    Laws.EncodingMatches.Statement (.sw rs2 rs1 imm) :=
  ⟨⟨"SW", 0x00002023#32, 0x0000707F#32⟩, by simp [opcodeTable, loadStoreTable], rfl, (encS_masked ..).trans (by decide)⟩

theorem Laws.EncodingMatches.lui (rd : RegIdx) (imm20 : BitVec 20) :
    Laws.EncodingMatches.Statement (.lui rd imm20) :=
  ⟨⟨"LUI", 0x00000037#32, 0x0000007F#32⟩, by simp [opcodeTable, transferTable], rfl, (encU_masked ..).trans (by decide)⟩

theorem Laws.EncodingMatches.jal (rd : RegIdx) (offset : BitVec 21) :
    Laws.EncodingMatches.Statement (.jal rd offset) :=
  ⟨⟨"JAL", 0x0000006F#32, 0x0000007F#32⟩, by simp [opcodeTable, transferTable], rfl, (encJ_masked ..).trans (by decide)⟩

theorem Laws.EncodingMatches.jalr (rd rs1 : RegIdx) (imm : BitVec 12) :
    Laws.EncodingMatches.Statement (.jalr rd rs1 imm) :=
  ⟨⟨"JALR", 0x00000067#32, 0x0000707F#32⟩, by simp [opcodeTable, transferTable], rfl, (encI_masked ..).trans (by decide)⟩

theorem Laws.EncodingMatches.beq (rs1 rs2 : RegIdx) (offset : BitVec 13) :
    Laws.EncodingMatches.Statement (.beq rs1 rs2 offset) :=
  ⟨⟨"BEQ", 0x00000063#32, 0x0000707F#32⟩, by simp [opcodeTable, transferTable], rfl, (encB_masked ..).trans (by decide)⟩

theorem Laws.EncodingMatches.bne (rs1 rs2 : RegIdx) (offset : BitVec 13) :
    Laws.EncodingMatches.Statement (.bne rs1 rs2 offset) :=
  ⟨⟨"BNE", 0x00001063#32, 0x0000707F#32⟩, by simp [opcodeTable, transferTable], rfl, (encB_masked ..).trans (by decide)⟩

theorem Laws.EncodingMatches.blt (rs1 rs2 : RegIdx) (offset : BitVec 13) :
    Laws.EncodingMatches.Statement (.blt rs1 rs2 offset) :=
  ⟨⟨"BLT", 0x00004063#32, 0x0000707F#32⟩, by simp [opcodeTable, transferTable], rfl, (encB_masked ..).trans (by decide)⟩

theorem Laws.EncodingMatches.bge (rs1 rs2 : RegIdx) (offset : BitVec 13) :
    Laws.EncodingMatches.Statement (.bge rs1 rs2 offset) :=
  ⟨⟨"BGE", 0x00005063#32, 0x0000707F#32⟩, by simp [opcodeTable, transferTable], rfl, (encB_masked ..).trans (by decide)⟩

theorem Laws.EncodingMatches.bltu (rs1 rs2 : RegIdx) (offset : BitVec 13) :
    Laws.EncodingMatches.Statement (.bltu rs1 rs2 offset) :=
  ⟨⟨"BLTU", 0x00006063#32, 0x0000707F#32⟩, by simp [opcodeTable, transferTable], rfl, (encB_masked ..).trans (by decide)⟩

theorem Laws.EncodingMatches.bgeu (rs1 rs2 : RegIdx) (offset : BitVec 13) :
    Laws.EncodingMatches.Statement (.bgeu rs1 rs2 offset) :=
  ⟨⟨"BGEU", 0x00007063#32, 0x0000707F#32⟩, by simp [opcodeTable, transferTable], rfl, (encB_masked ..).trans (by decide)⟩

end Sys2Proof
end

