-- ==== Sys2Proof/Laws/Sequential.lean ====
section
/-! SUPPORT. The architectural view: what draining adds up to, and what one committed cycle does to the view. -/

namespace Sys2Proof.Machine

/-- A state's log without cycle numbers. -/
def faultLog (s : State) : List PendingFault := s.dataFaults.map DataFaultRecord.timeless

@[simp] theorem timeless_stamp (n : Nat) (p : PendingFault) : (p.stamp n).timeless = p := rfl

@[simp] theorem writeBack_bubble (x : Vector Word 31) : writeBack x MLatch.bubble = x := rfl

@[simp] theorem executeStage_bubble (c : Config) : executeStage c DLatch.bubble = ELatch.bubble := rfl

@[simp] theorem memoryStage_bubble (c : Config) (m : Memory) :
    memoryStage c m ELatch.bubble = { m := MLatch.bubble, write := none, fault := none } := rfl

@[simp] theorem faultLog_tick (s : State) : faultLog s.tick = faultLog s := rfl

@[simp] theorem faultLog_commit (f' : FLatch) (d' : DLatch) (s : State) :
    faultLog (commit f' d' s) = faultLog s ++ (memoryStage s.cfg s.mem s.e).fault.toList := by
  rw [faultLog, commit_dataFaults]
  cases (memoryStage s.cfg s.mem s.e).fault <;> simp [faultLog]

@[simp] theorem faultLog_stallCycle (s : State) :
    faultLog (stallCycle s) = faultLog s ++ (memoryStage s.cfg s.mem s.e).fault.toList := by
  simp [stallCycle]

/-- The registers after draining: the M latch's write, then the E latch's, then the D latch's. -/
theorem drain_x (s : State) :
    s.drain.x =
      writeBack
        (writeBack (writeBack s.x s.m) (memoryStage s.cfg s.mem s.e).m)
        (memoryStage s.cfg (applyWrite s.mem (memoryStage s.cfg s.mem s.e).write) (executeStage s.cfg s.d)).m := by
  simp [State.drain, stallCycle]

/-- The memory after draining: the E latch's store, then the D latch's. -/
theorem drain_mem (s : State) :
    s.drain.mem =
      applyWrite (applyWrite s.mem (memoryStage s.cfg s.mem s.e).write)
        (memoryStage s.cfg (applyWrite s.mem (memoryStage s.cfg s.mem s.e).write) (executeStage s.cfg s.d)).write := by
  simp [State.drain, stallCycle, applyWrite]

/-- The log after draining. -/
theorem drain_faults (s : State) :
    faultLog s.drain =
      faultLog s ++ (memoryStage s.cfg s.mem s.e).fault.toList ++
        (memoryStage s.cfg (applyWrite s.mem (memoryStage s.cfg s.mem s.e).write) (executeStage s.cfg s.d)).fault.toList := by
  simp [State.drain, stallCycle]

@[simp] theorem drain_cfg (s : State) : s.drain.cfg = s.cfg := by simp [State.drain, stallCycle]

/-- What the D latch `d` does once it reaches MemoryAccess, over memory `mem`. -/
def effectOf (c : Config) (mem : Memory) (d : DLatch) : MemoryOut := memoryStage c mem (executeStage c d)

@[simp] theorem effectOf_bubble (c : Config) (mem : Memory) :
    effectOf c mem DLatch.bubble = { m := MLatch.bubble, write := none, fault := none } := rfl

/-- A committed cycle adds to the drained registers the write of the D latch it makes. -/
theorem drain_commit_x (f' : FLatch) (d' : DLatch) (s : State) :
    (commit f' d' s).drain.x = writeBack s.drain.x (effectOf s.cfg s.drain.mem d').m := by
  simp [drain_x, drain_mem, effectOf]

/-- A committed cycle adds to the drained memory the store of the D latch it makes. -/
theorem drain_commit_mem (f' : FLatch) (d' : DLatch) (s : State) :
    (commit f' d' s).drain.mem = applyWrite s.drain.mem (effectOf s.cfg s.drain.mem d').write := by
  simp [drain_mem, effectOf]

/-- A committed cycle adds to the drained log the fault of the D latch it makes. -/
theorem drain_commit_faults (f' : FLatch) (d' : DLatch) (s : State) :
    faultLog (commit f' d' s).drain = faultLog s.drain ++ (effectOf s.cfg s.drain.mem d').fault.toList := by
  simp [drain_faults, drain_mem, effectOf]

@[simp] theorem drain_tick_x (s : State) : s.tick.drain.x = s.drain.x := by simp [drain_x]

@[simp] theorem drain_tick_mem (s : State) : s.tick.drain.mem = s.drain.mem := by simp [drain_mem]

@[simp] theorem drain_tick_faults (s : State) : faultLog s.tick.drain = faultLog s.drain := by simp [drain_faults]

@[simp] theorem faultLog_dropFreeze (s : State) : faultLog s.dropFreeze = faultLog s := rfl

@[simp] theorem arch_dropFreeze (s : State) : s.dropFreeze.arch = s.arch := by
  have h : faultLog s.dropFreeze.drain = faultLog s.drain := by simp [drain_faults]
  rw [faultLog, faultLog] at h
  have hp : nextPc s.dropFreeze = nextPc s := rfl
  simp [State.arch, drain_x, drain_mem, hp, h]

/-- The architectural view after a committed cycle that makes the D latch `d'`. -/
theorem arch_commit (f' : FLatch) (d' : DLatch) (s : State) :
    (commit f' d' s.tick).arch =
      { x := writeBack s.arch.x (effectOf s.cfg s.arch.mem d').m
        pc := if d'.branchValid then d'.branchTarget else f'.pc
        mem := applyWrite s.arch.mem (effectOf s.cfg s.arch.mem d').write
        faults := s.arch.faults ++ (effectOf s.cfg s.arch.mem d').fault.toList } := by
  have h := drain_commit_faults f' d' s.tick
  rw [faultLog, faultLog] at h
  simp only [State.arch, drain_commit_x, drain_commit_mem, h, nextPc, commit_d, commit_f, tick_cfg, drain_tick_x,
    drain_tick_mem]
  have h' := drain_tick_faults s
  rw [faultLog, faultLog] at h'
  rw [h']

/-- Memory after draining is in the canonical form. -/
theorem wf_drain {s : State} (h : Memory.wf s.mem) : Memory.wf s.arch.mem := by
  show Memory.wf s.drain.mem
  rw [drain_mem]
  exact wf_applyWrite (wf_applyWrite h _) _

/-- MemoryAccess writes back to the latch's `rd` at most, and only if the latch's write enable says so. -/
theorem memoryStage_m (c : Config) (mem : Memory) (e : ELatch) :
    (memoryStage c mem e).m.rd = e.rd ∧ ((memoryStage c mem e).m.wbValid = true → e.wbEnable = true) := by
  unfold memoryStage storePath loadPath
  split
  · split <;> simp
  · split
    · split <;> simp
    · simp

/-- A register that no older instruction will still write reads the same before and after draining (R156). -/
theorem readReg_of_not_pending {s : State} {r : RegIdx} (h : pendingWrite s r = false) : s.readReg r = s.arch.reg r := by
  show readFile s.x r = readFile s.drain.x r
  by_cases hr : r = 0#5
  · subst hr; rfl
  · have hd := memoryStage_m s.cfg (applyWrite s.mem (memoryStage s.cfg s.mem s.e).write) (executeStage s.cfg s.d)
    have he := memoryStage_m s.cfg s.mem s.e
    simp only [pendingWrite, bne_iff_ne.2 hr, Bool.true_and, Bool.or_eq_false_iff, Bool.and_eq_false_iff] at h
    obtain ⟨⟨h1, h2⟩, h3⟩ := h
    rw [drain_x, readFile_writeBack, readFile_writeBack, readFile_writeBack, if_neg, if_neg, if_neg]
    · rintro ⟨hv, -, e⟩
      simp [hv, e] at h3
    · rintro ⟨hv, -, e⟩
      simp [he.2 hv, e, he.1] at h2
    · rintro ⟨hv, -, e⟩
      have hw : s.d.wbEnable = true := hd.2 hv
      rw [hd.1] at e
      simp [hw, e, executeStage] at h1

end Sys2Proof.Machine
end

