-- ==== Sys2Proof/Tests/Slice0.lean ====
section
/-! SUPPORT. Tests and witnesses. Expected values come from the spec: the words from the encodings of 30_encoding.md, the results
from the derived vectors of 95_test_vectors.md (L2) or worked out by hand from the rule cited. -/

namespace Sys2Proof.Tests

open Sys2Proof.Machine

/-! ## Helpers -/

/-- The state with the listed registers set. -/
def withRegs (rs : List (RegIdx × Word)) (s : State) : State :=
  { s with x := rs.foldl (fun x p => writeFile x p.1 p.2) s.x }

/-- The state in which the word `w`, fetched from the ROM's first address, is about to be decoded. -/
def ready (c : Config) (w : Word) (rs : List (RegIdx × Word)) (mem : Memory) : State :=
  withRegs rs (State.withFetchWord { State.initial c with mem := mem } 32 w.toNat)

/-- The next state, or reset where there is none. -/
def nextOr : Result → State
  | .next t => t
  | .fault _ => State.reset
  | .refused _ => State.reset

/-- The architectural view after the one step in which the word completes Decode. -/
def after (w : Word) (rs : List (RegIdx × Word)) (mem : Memory) : Arch :=
  (nextOr (step (ready Config.default w rs mem))).arch

/-- The same with `SRA_IMPLEMENTED`. -/
def afterSra (w : Word) (rs : List (RegIdx × Word)) : Arch :=
  (nextOr (step (ready { Config.default with sraImplemented := true } w rs []))).arch

/-- The RAM of the load and store vectors: `80 7F FF FE` at 0x20000000. -/
def ram : Memory := [(0x20000000, 0x80#8), (0x20000001, 0x7F#8), (0x20000002, 0xFF#8), (0x20000003, 0xFE#8)]

/-- Four bytes of a memory. -/
def fourBytes (m : Memory) (a : Nat) : List Byte :=
  [Memory.readByte m a, Memory.readByte m (a + 1), Memory.readByte m (a + 2), Memory.readByte m (a + 3)]

/-! ## WellFormed: each check refuses an ill-formed term -/

theorem test_wf_refuses_odd_jal : (Instr.jal 1#5 17#21).wf = false := by decide
theorem test_wf_refuses_odd_beq : (Instr.beq 1#5 2#5 9#13).wf = false := by decide
theorem test_wf_refuses_odd_bne : (Instr.bne 1#5 2#5 1#13).wf = false := by decide
theorem test_wf_refuses_odd_blt : (Instr.blt 1#5 2#5 0x1FFF#13).wf = false := by decide
theorem test_wf_refuses_odd_bge : (Instr.bge 1#5 2#5 3#13).wf = false := by decide
theorem test_wf_refuses_odd_bltu : (Instr.bltu 1#5 2#5 5#13).wf = false := by decide
theorem test_wf_refuses_odd_bgeu : (Instr.bgeu 1#5 2#5 7#13).wf = false := by decide
theorem test_wf_accepts_even : (Instr.jal 1#5 0x100000#21).wf = true ∧ (Instr.beq 1#5 2#5 0x1000#13).wf = true := by decide

/-! ## R73: each check of a configuration refuses -/

theorem test_config_default_ok : configOk Config.default = true := by decide
theorem test_config_base_misaligned : configOk { Config.default with romBase := 0x10000002#32 } = false := by decide
theorem test_config_size_misaligned : configOk { Config.default with romSize := 6 } = false := by decide
theorem test_config_size_zero : configOk { Config.default with romSize := 0 } = false := by decide
theorem test_config_past_the_top : configOk { Config.default with romBase := 0xFFFFFFFC#32, romSize := 8 } = false := by decide
theorem test_config_at_the_top : configOk { Config.default with romBase := 0xFFFFFFFC#32, romSize := 4 } = true := by decide
theorem test_config_overlap :
    configOk { Config.default with ramRegions := [{ base := 0x1000FFFC#32, size := 8 }] } = false := by decide
theorem test_config_no_ram : configOk { Config.default with ramRegions := [] } = false := by decide

/-! ## Decoding: a word of every instruction, written out from the format tables, field by field -/

/-- R112, R203 to R212. -/
theorem test_decode_alu_reg :
    decode 0b0000000_00010_11111_000_00001_0110011#32 = .instr (.add 1#5 31#5 2#5) ∧
    decode 0b0100000_00111_11110_000_00010_0110011#32 = .instr (.sub 2#5 30#5 7#5) ∧
    decode 0b0000000_01100_11101_001_00011_0110011#32 = .instr (.sll 3#5 29#5 12#5) ∧
    decode 0b0000000_10001_11100_010_00100_0110011#32 = .instr (.slt 4#5 28#5 17#5) ∧
    decode 0b0000000_10110_11011_011_00101_0110011#32 = .instr (.sltu 5#5 27#5 22#5) ∧
    decode 0b0000000_11011_11010_100_00110_0110011#32 = .instr (.xor 6#5 26#5 27#5) ∧
    decode 0b0000000_00000_11001_101_00111_0110011#32 = .instr (.srl 7#5 25#5 0#5) ∧
    decode 0b0100000_00101_11000_101_01000_0110011#32 = .instr (.sra 8#5 24#5 5#5) ∧
    decode 0b0000000_01010_10111_110_01001_0110011#32 = .instr (.or 9#5 23#5 10#5) ∧
    decode 0b0000000_01111_10110_111_01010_0110011#32 = .instr (.and 10#5 22#5 15#5) := by
  decide

/-- R113, R213 to R221. -/
theorem test_decode_alu_imm :
    decode 0b111111111111_10100_000_00011_0010011#32 = .instr (.addi 3#5 20#5 0xFFF#12) ∧
    decode 0b100000000000_10101_010_00100_0010011#32 = .instr (.slti 4#5 21#5 0x800#12) ∧
    decode 0b011111111111_10110_011_00101_0010011#32 = .instr (.sltiu 5#5 22#5 0x7FF#12) ∧
    decode 0b000000000001_10111_100_00110_0010011#32 = .instr (.xori 6#5 23#5 0x001#12) ∧
    decode 0b010000100000_11000_110_00111_0010011#32 = .instr (.ori 7#5 24#5 0x420#12) ∧
    decode 0b101010111100_11001_111_01000_0010011#32 = .instr (.andi 8#5 25#5 0xABC#12) ∧
    decode 0b0000000_11111_01001_001_10001_0010011#32 = .instr (.slli 17#5 9#5 31#5) ∧
    decode 0b0000000_10000_01001_101_10001_0010011#32 = .instr (.srli 17#5 9#5 16#5) ∧
    decode 0b0100000_10101_01001_101_10001_0010011#32 = .instr (.srai 17#5 9#5 21#5) := by
  decide

/-- R113, R286 to R290. -/
theorem test_decode_load :
    decode 0b011111111111_01000_000_00101_0000011#32 = .instr (.lb 5#5 8#5 0x7FF#12) ∧
    decode 0b000000000010_01001_001_00110_0000011#32 = .instr (.lh 6#5 9#5 0x002#12) ∧
    decode 0b111111111100_01010_010_00111_0000011#32 = .instr (.lw 7#5 10#5 0xFFC#12) ∧
    decode 0b100000000000_01011_100_01000_0000011#32 = .instr (.lbu 8#5 11#5 0x800#12) ∧
    decode 0b010101010101_01100_101_01001_0000011#32 = .instr (.lhu 9#5 12#5 0x555#12) := by
  decide

/-- R114, R291 to R293. -/
theorem test_decode_store :
    decode 0b1111111_01001_10010_000_11111_0100011#32 = .instr (.sb 9#5 18#5 0xFFF#12) ∧
    decode 0b0111111_01010_10011_001_00010_0100011#32 = .instr (.sh 10#5 19#5 0x7E2#12) ∧
    decode 0b1000000_01011_10100_010_11100_0100011#32 = .instr (.sw 11#5 20#5 0x81C#12) := by
  decide

/-- R116, R240. -/
theorem test_decode_lui :
    decode 0b10001010101111001101_11110_0110111#32 = .instr (.lui 30#5 0x8ABCD#20) := by
  decide

/-- R117, R113, R254, R255. -/
theorem test_decode_jump :
    decode 0b1_0000000001_1_00000000_00001_1101111#32 = .instr (.jal 1#5 0x100802#21) ∧
    decode 0b0_1111111110_0_11111111_11111_1101111#32 = .instr (.jal 31#5 0x0FF7FC#21) ∧
    decode 0b111111111101_00101_000_00001_1100111#32 = .instr (.jalr 1#5 5#5 0xFFD#12) := by
  decide

/-- R115, R257 to R262. -/
theorem test_decode_branch :
    decode 0b1_000000_00010_00001_000_0000_0_1100011#32 = .instr (.beq 1#5 2#5 0x1000#13) ∧
    decode 0b0_000000_00011_00100_001_0000_1_1100011#32 = .instr (.bne 4#5 3#5 0x0800#13) ∧
    decode 0b0_111111_00100_00111_100_0000_0_1100011#32 = .instr (.blt 7#5 4#5 0x07E0#13) ∧
    decode 0b0_000000_00101_01010_101_1111_0_1100011#32 = .instr (.bge 10#5 5#5 0x001E#13) ∧
    decode 0b0_111111_00110_01101_110_1111_1_1100011#32 = .instr (.bltu 13#5 6#5 0x0FFE#13) ∧
    decode 0b1_101010_00111_10000_111_1011_0_1100011#32 = .instr (.bgeu 16#5 7#5 0x1556#13) := by
  decide

/-- R80, R110: the first byte of an instruction is the least significant; a word lies in memory in that order. -/
theorem test_decode_bytes : decodeBytes [0xB3#8, 0x81#8, 0x20#8, 0x00#8] = .instr (.add 3#5 1#5 2#5) := by decide
theorem test_decode_truncated : decodeBytes [0xB3#8, 0x81#8, 0x20#8] = .reject .truncated := by decide
theorem test_decode_table_word : decodeTableWord 32 0x002081B3 = some (.add 3#5 1#5 2#5) := by decide
theorem test_encode_add : encode (.add 3#5 1#5 2#5) = 0x002081B3#32 := by decide
theorem test_encode_beq_farthest : encode (.beq 0#5 0#5 0x1000#13) = 0x80000063#32 := by decide

/-! ## One instruction each: 95_test_vectors.md L2 -/

theorem test_add_1 : (after 0x002081B3#32 [(1#5, 0x7FFFFFFF#32), (2#5, 0x00000001#32)] []).reg 3#5 = 0x80000000#32 := by decide
theorem test_add_2 : (after 0x002081B3#32 [(1#5, 0xFFFFFFFF#32), (2#5, 0x00000001#32)] []).reg 3#5 = 0x00000000#32 := by decide
theorem test_sub_1 : (after 0x402081B3#32 [(1#5, 0x00000000#32), (2#5, 0x00000001#32)] []).reg 3#5 = 0xFFFFFFFF#32 := by decide
theorem test_sub_2 : (after 0x402081B3#32 [(1#5, 0x80000000#32), (2#5, 0x00000001#32)] []).reg 3#5 = 0x7FFFFFFF#32 := by decide
theorem test_sll_1 : (after 0x002091B3#32 [(1#5, 0x00000001#32), (2#5, 0x0000001F#32)] []).reg 3#5 = 0x80000000#32 := by decide
theorem test_sll_2 : (after 0x002091B3#32 [(1#5, 0x00000001#32), (2#5, 0x00000020#32)] []).reg 3#5 = 0x00000001#32 := by decide
theorem test_slt_1 : (after 0x0020A1B3#32 [(1#5, 0xFFFFFFFF#32), (2#5, 0x00000001#32)] []).reg 3#5 = 0x00000001#32 := by decide
theorem test_slt_2 : (after 0x0020A1B3#32 [(1#5, 0x00000001#32), (2#5, 0xFFFFFFFF#32)] []).reg 3#5 = 0x00000000#32 := by decide
theorem test_sltu_1 : (after 0x0020B1B3#32 [(1#5, 0xFFFFFFFF#32), (2#5, 0x00000001#32)] []).reg 3#5 = 0x00000000#32 := by decide
theorem test_sltu_2 : (after 0x0020B1B3#32 [(1#5, 0x00000001#32), (2#5, 0xFFFFFFFF#32)] []).reg 3#5 = 0x00000001#32 := by decide
theorem test_xor_1 : (after 0x0020C1B3#32 [(1#5, 0xF0F0F0F0#32), (2#5, 0xFF00FF00#32)] []).reg 3#5 = 0x0FF00FF0#32 := by decide
theorem test_xor_2 : (after 0x0010C1B3#32 [(1#5, 0x12345678#32)] []).reg 3#5 = 0x00000000#32 := by decide
theorem test_srl_1 : (after 0x0020D1B3#32 [(1#5, 0x80000000#32), (2#5, 0x00000004#32)] []).reg 3#5 = 0x08000000#32 := by decide
theorem test_srl_2 : (after 0x0020D1B3#32 [(1#5, 0x80000000#32), (2#5, 0x00000000#32)] []).reg 3#5 = 0x80000000#32 := by decide
theorem test_sra_1 : (after 0x4020D1B3#32 [(1#5, 0x80000000#32), (2#5, 0x00000004#32)] []).reg 3#5 = 0x08000000#32 := by decide
theorem test_sra_2 : (afterSra 0x4020D1B3#32 [(1#5, 0x80000000#32), (2#5, 0x00000004#32)]).reg 3#5 = 0xF8000000#32 := by decide
theorem test_or_1 : (after 0x0020E1B3#32 [(1#5, 0xF0F0F0F0#32), (2#5, 0x0F0000FF#32)] []).reg 3#5 = 0xFFF0F0FF#32 := by decide
theorem test_and_1 : (after 0x0020F1B3#32 [(1#5, 0xF0F0F0F0#32), (2#5, 0xFF00FF00#32)] []).reg 3#5 = 0xF000F000#32 := by decide
theorem test_addi_1 : (after 0xFFF08193#32 [(1#5, 0x00000000#32)] []).reg 3#5 = 0xFFFFFFFF#32 := by decide
theorem test_addi_2 : (after 0x80008193#32 [(1#5, 0x00000000#32)] []).reg 3#5 = 0xFFFFF800#32 := by decide
theorem test_slti_1 : (after 0xFFF0A193#32 [(1#5, 0xFFFFFFFE#32)] []).reg 3#5 = 0x00000001#32 := by decide
theorem test_slti_2 : (after 0x0000A193#32 [(1#5, 0x00000000#32)] []).reg 3#5 = 0x00000000#32 := by decide
theorem test_sltiu_1 : (after 0xFFF0B193#32 [(1#5, 0xFFFFFFFE#32)] []).reg 3#5 = 0x00000001#32 := by decide
theorem test_sltiu_2 : (after 0x0010B193#32 [(1#5, 0x00000000#32)] []).reg 3#5 = 0x00000001#32 := by decide
theorem test_xori_1 : (after 0xFFF0C193#32 [(1#5, 0x12345678#32)] []).reg 3#5 = 0xEDCBA987#32 := by decide
theorem test_ori_1 : (after 0x8000E193#32 [(1#5, 0x00000001#32)] []).reg 3#5 = 0xFFFFF801#32 := by decide
theorem test_andi_1 : (after 0x7FF0F193#32 [(1#5, 0xFFFFFFFF#32)] []).reg 3#5 = 0x000007FF#32 := by decide
theorem test_andi_2 : (after 0xFF00F193#32 [(1#5, 0x1234567F#32)] []).reg 3#5 = 0x12345670#32 := by decide
theorem test_slli_1 : (after 0x01F09193#32 [(1#5, 0x00000003#32)] []).reg 3#5 = 0x80000000#32 := by decide
theorem test_slli_2 : (after 0x00009193#32 [(1#5, 0xDEADBEEF#32)] []).reg 3#5 = 0xDEADBEEF#32 := by decide
theorem test_srli_1 : (after 0x01F0D193#32 [(1#5, 0x80000000#32)] []).reg 3#5 = 0x00000001#32 := by decide
theorem test_srai_1 : (after 0x4040D193#32 [(1#5, 0x80000000#32)] []).reg 3#5 = 0x08000000#32 := by decide
theorem test_srai_2 : (afterSra 0x4040D193#32 [(1#5, 0x80000000#32)]).reg 3#5 = 0xF8000000#32 := by decide
theorem test_lui_1 : (after 0x20000437#32 [(5#5, 0x00000777#32)] []).reg 8#5 = 0x20000000#32 := by decide
theorem test_lui_2 : (after 0xFFFFF2B7#32 [(5#5, 0x00000777#32)] []).reg 5#5 = 0xFFFFF000#32 := by decide
theorem test_add_keeps_x0 : (after 0x00208033#32 [(1#5, 5#32), (2#5, 6#32)] []).reg 0#5 = 0#32 := by decide

theorem test_beq_1 : (after 0x00208463#32 [(1#5, 0x00000005#32), (2#5, 0x00000005#32)] []).pc = 0x10000008#32 := by decide
theorem test_beq_2 : (after 0x00208463#32 [(1#5, 0x00000005#32), (2#5, 0x00000006#32)] []).pc = 0x10000004#32 := by decide
theorem test_bne_1 : (after 0x00209463#32 [(1#5, 0x00000005#32), (2#5, 0x00000006#32)] []).pc = 0x10000008#32 := by decide
theorem test_bne_2 : (after 0x00209463#32 [(1#5, 0x00000005#32), (2#5, 0x00000005#32)] []).pc = 0x10000004#32 := by decide
theorem test_blt_1 : (after 0x0020C463#32 [(1#5, 0xFFFFFFFF#32), (2#5, 0x00000001#32)] []).pc = 0x10000008#32 := by decide
theorem test_blt_2 : (after 0x0020C463#32 [(1#5, 0x00000001#32), (2#5, 0xFFFFFFFF#32)] []).pc = 0x10000004#32 := by decide
theorem test_bge_1 : (after 0x0020D463#32 [(1#5, 0x00000001#32), (2#5, 0xFFFFFFFF#32)] []).pc = 0x10000008#32 := by decide
theorem test_bge_2 : (after 0x0020D463#32 [(1#5, 0xFFFFFFFF#32), (2#5, 0x00000001#32)] []).pc = 0x10000004#32 := by decide
theorem test_bltu_1 : (after 0x0020E463#32 [(1#5, 0x00000001#32), (2#5, 0xFFFFFFFF#32)] []).pc = 0x10000008#32 := by decide
theorem test_bltu_2 : (after 0x0020E463#32 [(1#5, 0xFFFFFFFF#32), (2#5, 0x00000001#32)] []).pc = 0x10000004#32 := by decide
theorem test_bgeu_1 : (after 0x0020F463#32 [(1#5, 0xFFFFFFFF#32), (2#5, 0x00000001#32)] []).pc = 0x10000008#32 := by decide
theorem test_bgeu_2 : (after 0x0020F463#32 [(1#5, 0x00000001#32), (2#5, 0xFFFFFFFF#32)] []).pc = 0x10000004#32 := by decide
theorem test_jal_links : (after 0x010000EF#32 [] []).reg 1#5 = 0x10000004#32 := by decide
theorem test_jal_goes : (after 0xFFDFF06F#32 [] []).pc = 0x0FFFFFFC#32 := by decide
theorem test_jalr_old_rs1 : (after 0x008282E7#32 [(5#5, 0x10000000#32)] []).pc = 0x10000008#32 := by decide
theorem test_jalr_keeps_bit_0 : (after 0x000280E7#32 [(5#5, 0x10000001#32)] []).pc = 0x10000001#32 := by decide

theorem test_lb_1 : (after 0x00040283#32 [(8#5, 0x20000000#32), (9#5, 0x12345678#32), (5#5, 7#32)] ram).reg 5#5 = 0xFFFFFF80#32 := by decide
theorem test_lbu_1 : (after 0x00044283#32 [(8#5, 0x20000000#32), (9#5, 0x12345678#32), (5#5, 7#32)] ram).reg 5#5 = 0x00000080#32 := by decide
theorem test_lbu_2 : (after 0x00344283#32 [(8#5, 0x20000000#32), (9#5, 0x12345678#32), (5#5, 7#32)] ram).reg 5#5 = 0x000000FE#32 := by decide
theorem test_lh_1 : (after 0x00241283#32 [(8#5, 0x20000000#32), (9#5, 0x12345678#32), (5#5, 7#32)] ram).reg 5#5 = 0xFFFFFEFF#32 := by decide
theorem test_lhu_1 : (after 0x00245283#32 [(8#5, 0x20000000#32), (9#5, 0x12345678#32), (5#5, 7#32)] ram).reg 5#5 = 0x0000FEFF#32 := by decide
theorem test_lh_2 : (after 0x00141283#32 [(8#5, 0x20000000#32), (9#5, 0x12345678#32), (5#5, 7#32)] ram).faults =
    [{ kind := .misalignedAccess, access := .load, addr := 0x20000001#32, width := .half }] := by decide
theorem test_lhu_2 : (after 0x00345283#32 [(8#5, 0x20000000#32), (9#5, 0x12345678#32), (5#5, 7#32)] ram).faults =
    [{ kind := .misalignedAccess, access := .load, addr := 0x20000003#32, width := .half }] := by decide
theorem test_lw_1 : (after 0x00042283#32 [(8#5, 0x20000000#32), (9#5, 0x12345678#32), (5#5, 7#32)] ram).reg 5#5 = 0xFEFF7F80#32 := by decide
theorem test_lw_2 : (after 0x00242283#32 [(8#5, 0x20000000#32), (9#5, 0x12345678#32), (5#5, 7#32)] ram).faults =
    [{ kind := .misalignedAccess, access := .load, addr := 0x20000002#32, width := .word }] := by decide
theorem test_lb_2 : (after 0xFFF40283#32 [(8#5, 0x20000000#32), (9#5, 0x12345678#32), (5#5, 7#32)] ram).faults =
    [{ kind := .unmappedAddress, access := .load, addr := 0x1FFFFFFF#32, width := .byte }] := by decide
theorem test_sb_1 : fourBytes (after 0x009401A3#32 [(8#5, 0x20000000#32), (9#5, 0x12345678#32), (5#5, 7#32)] ram).mem 0x20000000 =
    [0x80#8, 0x7F#8, 0xFF#8, 0x78#8] := by decide
theorem test_sh_1 : fourBytes (after 0x00941123#32 [(8#5, 0x20000000#32), (9#5, 0x12345678#32), (5#5, 7#32)] ram).mem 0x20000000 =
    [0x80#8, 0x7F#8, 0x78#8, 0x56#8] := by decide
theorem test_sw_1 : fourBytes (after 0x00942023#32 [(8#5, 0x20000000#32), (9#5, 0x12345678#32), (5#5, 7#32)] ram).mem 0x20000000 =
    [0x78#8, 0x56#8, 0x34#8, 0x12#8] := by decide
theorem test_sh_2 : (after 0x009410A3#32 [(8#5, 0x20000000#32), (9#5, 0x12345678#32), (5#5, 7#32)] ram).faults =
    [{ kind := .misalignedAccess, access := .store, addr := 0x20000001#32, width := .half }] := by decide
theorem test_sw_2 : (after 0x00942123#32 [(8#5, 0x20000000#32), (9#5, 0x12345678#32), (5#5, 7#32)] ram).faults =
    [{ kind := .misalignedAccess, access := .store, addr := 0x20000002#32, width := .word }] := by decide
theorem test_sb_2 : (after 0xFE940FA3#32 [(8#5, 0x20000000#32), (9#5, 0x12345678#32), (5#5, 7#32)] ram).faults =
    [{ kind := .unmappedAddress, access := .store, addr := 0x1FFFFFFF#32, width := .byte }] := by decide
theorem test_sw_rom : (after 0x00942023#32 [(8#5, 0x10000000#32), (9#5, 0x12345678#32), (5#5, 7#32)] ram).faults =
    [{ kind := .readOnlyViolation, access := .store, addr := 0x10000000#32, width := .word }] := by decide
/-! ## The machine around an instruction -/

/-- R371: the first step from construction fetches the word at `ROM_BASE`. -/
theorem test_first_step_fetches_rom_base :
    (nextOr (step (nextOr (romLoad [0x002081B3#32] State.reset)))).f =
      { pc := 0x10000000#32, pcPlus4 := 0x10000004#32, instruction := 0x002081B3#32 } := by decide

/-- R371: the register write of `ADD x3, x1, x2` at `ROM_BASE` is visible after cycle 5, and not after cycle 4. -/
theorem test_write_visible_after_cycle_5 :
    (nextOr (runFor 4 (withRegs [(1#5, 5#32), (2#5, 6#32)] (nextOr (romLoad [0x002081B3#32] State.reset))))).readReg 3#5 = 0#32 ∧
    (nextOr (runFor 5 (withRegs [(1#5, 5#32), (2#5, 6#32)] (nextOr (romLoad [0x002081B3#32] State.reset))))).readReg 3#5 = 11#32 := by
  decide

/-- `withFetchWord` on the reset state: the next step runs the word's instruction (log entry 5). -/
theorem test_fetch_word_runs : (nextOr (step (State.reset.withFetchWord 32 0x00100513))).arch.reg 10#5 = 1#32 := by decide

/-! ## Witnesses: for each statement with hypotheses, a state and operands that meet them, clause by clause -/

/-- `ADD x3, x1, x2` about to be decoded at `ROM_BASE`. -/
def sAdd : State := ready Config.default 0x002081B3#32 [(1#5, 5#32), (2#5, 6#32)] ram

/-- The same under `HAZARD_POLICY = none`. -/
def sAddNone : State := ready { Config.default with hazardPolicy := .none } 0x002081B3#32 [(1#5, 5#32), (2#5, 6#32)] ram

/-- The same with a write of `x1` in the E latch. -/
def sStall : State := { sAdd with e := { ELatch.bubble with rd := 1#5, result := 9#32, wbEnable := true } }

/-- The same with a taken jump in the D latch. -/
def sSquash : State :=
  { sAdd with d := { DLatch.bubble with isJal := true, branchTarget := 0x10000100#32, branchValid := true } }

/-- A jump to an unmapped address. -/
def sUnmapped : State :=
  { sAdd with d := { DLatch.bubble with isJal := true, branchTarget := 0x30000000#32, branchValid := true } }

/-- A jump to a misaligned address. -/
def sMisaligned : State :=
  { sAdd with d := { DLatch.bubble with isJalr := true, branchTarget := 0x10000102#32, branchValid := true } }

/-- A machine that a fetch fault has halted. -/
def sHalted : State := nextOr (step sUnmapped)

/-- A store in the E latch, of the low bytes of `v` at `a`. -/
def sStore (f3 : BitVec 3) (a v : Word) : State :=
  { sAdd with e := { ELatch.bubble with isStore := true, funct3 := f3, rs1Value := a, rs2Value := v } }

/-- A load in the E latch, into `x5`. -/
def sLoad (f3 : BitVec 3) (a : Word) : State :=
  { sAdd with e := { ELatch.bubble with isLoad := true, funct3 := f3, rs1Value := a, rd := 5#5, wbEnable := true } }

/-- A write of `x7` in the M latch. -/
def sWrite : State := { sAdd with m := { wbValue := 0x77#32, rd := 7#5, wbValid := true } }

/-- The D latch of an ALU instruction. -/
def sAlu (reg : Bool) (f3 : BitVec 3) (f7 : BitVec 7) : State :=
  { sAdd with
    d := { DLatch.bubble with isAlu := true, aluReg := reg, funct3 := f3, funct7 := f7, rs1Value := 8#32, rs2Value := 3#32 } }

/-- An unrecognised word about to be decoded. -/
def sUnknown : State := ready Config.default 0x00000073#32 [] []

/-- Hypotheses of ConstructionLeavesTheResetState, ConfigurationConstraints (its third clause at the last byte of the ROM's and
of the RAM's last word; its second at an empty ROM) and AddressDecoding (at both ends of each region). -/
theorem witness_configuration :
    configOk Config.default = true ∧ configOk { Config.default with romSize := 0 } = false ∧
    aligned 0x1000FFFC#32 .word = true ∧ 3 < Width.word.bytes ∧ aligned 0x2000FFFC#32 .word = true ∧
    deviceAt Config.default 0x0FFFFFFF#32 = .unmapped ∧ deviceAt Config.default 0x10000000#32 = .rom ∧
    deviceAt Config.default 0x1000FFFF#32 = .rom ∧ deviceAt Config.default 0x10010000#32 = .unmapped ∧
    deviceAt Config.default 0x1FFFFFFF#32 = .unmapped ∧ deviceAt Config.default 0x20000000#32 = .ram ∧
    deviceAt Config.default 0x2000FFFF#32 = .ram ∧ deviceAt Config.default 0x20010000#32 = .unmapped ∧
    inRegion (romRegion Config.default) 0x1000FFFF#32 = true := by decide

/-- Hypotheses of BusMovesExactlyItsBytes and StoreThenLoadReturnsTheValue, for each width, at the last address of the RAM. -/
theorem witness_bus :
    Memory.wf ram ∧ busRead Config.default ram 0x20000003#32 .byte = .ok 0xFE#32 ∧
    busRead Config.default ram 0x20000002#32 .half = .ok 0xFEFF#32 ∧
    busRead Config.default ram 0x20000000#32 .word = .ok 0xFEFF7F80#32 ∧
    busWrite Config.default 0x2000FFFF#32 .byte 0x12345678#32 = .ok { addr := 0x2000FFFF, bytes := [0x78#8] } ∧
    busWrite Config.default 0x2000FFFE#32 .half 0x12345678#32 = .ok { addr := 0x2000FFFE, bytes := [0x78#8, 0x56#8] } ∧
    busWrite Config.default 0x2000FFFC#32 .word 0x12345678#32 =
      .ok { addr := 0x2000FFFC, bytes := [0x78#8, 0x56#8, 0x34#8, 0x12#8] } := by decide

/-- Each error of BusErrorPriority occurs, and misalignment comes first at an unmapped and at a ROM address. -/
theorem witness_bus_errors :
    busRead Config.default ram 0x30000001#32 .half = .error .misalignedAccess ∧
    busRead Config.default ram 0x30000000#32 .word = .error .unmappedAddress ∧
    busWrite Config.default 0x10000001#32 .half 0#32 = .error .misalignedAccess ∧
    busWrite Config.default 0x30000000#32 .byte 0#32 = .error .unmappedAddress ∧
    busWrite Config.default 0x10000000#32 .word 0#32 = .error .readOnlyViolation := by decide

/-- Hypotheses of RegisterZeroAndRegisterFile and of WriteBackIsTheOnlyRegisterWrite. -/
theorem witness_registers :
    (31#5 : RegIdx) ≠ 0#5 ∧ step sWrite = .next (nextOr (step sWrite)) ∧ sWrite.runs = true ∧
    (nextOr (step sWrite)).halted = false ∧ sWrite.m.wbValid = true ∧ sWrite.m.rd ≠ 0#5 :=
  ⟨by decide, rfl, by decide, by decide, by decide, by decide⟩

/-- Hypotheses of MemoryAccessOfTheELatch: a store that is written and one that fails, a load that is read and one that fails, and
a latch with no access. -/
theorem witness_memory_access :
    ((sStore 0b010#3 0x2000FFFC#32 1#32).runs = true ∧ (sStore 0b010#3 0x2000FFFC#32 1#32).e.isStore = true ∧
      (nextOr (step (sStore 0b010#3 0x2000FFFC#32 1#32))).halted = false ∧
      ((sStore 0b010#3 0x2000FFFC#32 1#32).e.funct3.extractLsb' 0 2, Width.word) ∈
        [(0b00#2, Width.byte), (0b01#2, .half), (0b10#2, .word)] ∧
      busWrite Config.default 0x2000FFFC#32 .word 1#32 = .ok { addr := 0x2000FFFC, bytes := [1#8, 0#8, 0#8, 0#8] }) ∧
    ((sStore 0b001#3 0x20000001#32 1#32).runs = true ∧
      ((sStore 0b001#3 0x20000001#32 1#32).e.funct3.extractLsb' 0 2, Width.half) ∈
        [(0b00#2, Width.byte), (0b01#2, .half), (0b10#2, .word)] ∧
      (nextOr (step (sStore 0b001#3 0x20000001#32 1#32))).halted = false ∧
      busWrite Config.default 0x20000001#32 .half 1#32 = .error .misalignedAccess) ∧
    ((sLoad 0b000#3 0x20000003#32).runs = true ∧ (sLoad 0b000#3 0x20000003#32).e.isLoad = true ∧
      ((sLoad 0b000#3 0x20000003#32).e.funct3.extractLsb' 0 2, Width.byte) ∈
        [(0b00#2, Width.byte), (0b01#2, .half), (0b10#2, .word)] ∧
      busRead Config.default ram 0x20000003#32 .byte = .ok 0xFE#32 ∧
      (sLoad 0b000#3 0x20000003#32).e.isStore = false ∧ (nextOr (step (sLoad 0b000#3 0x20000003#32))).halted = false) ∧
    ((sLoad 0b010#3 0x20010000#32).runs = true ∧ (nextOr (step (sLoad 0b010#3 0x20010000#32))).halted = false ∧
      busRead Config.default ram 0x20010000#32 .word = .error .unmappedAddress) ∧
    (sAdd.runs = true ∧ sAdd.e.isStore = false ∧ sAdd.e.isLoad = false ∧ (nextOr (step sAdd)).halted = false) := by
  decide

/-- Hypotheses of ExecuteOfTheDLatch: each funct3, both directions of funct7[5] and of `SRA_IMPLEMENTED`, and the other classes. -/
theorem witness_execute :
    (∀ f3 ∈ [0b000#3, 0b001#3, 0b010#3, 0b011#3, 0b100#3, 0b101#3, 0b110#3, 0b111#3],
      (sAlu true f3 0b0100000#7).runs = true ∧ (nextOr (step (sAlu true f3 0b0100000#7))).halted = false ∧
      (sAlu true f3 0b0100000#7).d.isAlu = true ∧ (sAlu true f3 0b0100000#7).d.funct3 = f3) ∧
    (nextOr (step (sAlu true 0b000#3 0b0100000#7))).e.result = 5#32 ∧
    (nextOr (step (sAlu false 0b000#3 0b0100000#7))).e.result = 8#32 ∧
    (sAlu false 0b101#3 0b0100000#7).cfg.sraImplemented = false ∧
    ({ sAlu true 0b101#3 0b0100000#7 with cfg := { Config.default with sraImplemented := true } } : State).runs = true ∧
    (nextOr (step { sAdd with d := { DLatch.bubble with isLui := true, imm := 0x5000#32 } })).e.result = 0x5000#32 ∧
    (nextOr (step { sAdd with d := { DLatch.bubble with isJal := true, pcPlus4 := 0x44#32 } })).e.result = 0x44#32 ∧
    (nextOr (step sAdd)).e.result = 0#32 := by decide

/-- Hypotheses of FetchOfTheNextWord and of StalledCycleHoldsFetch: a stalled cycle, with no access in the E latch, and one that is
not stalled. -/
theorem witness_stall :
    sStall.runs = true ∧ stalls sStall = true ∧ step sStall = .next (nextOr (step sStall)) ∧
    (nextOr (step sStall)).halted = false ∧ sStall.e.isLoad = false ∧ sStall.e.isStore = false ∧
    sAdd.runs = true ∧ stalls sAdd = false ∧ step sAdd = .next (nextOr (step sAdd)) ∧ (nextOr (step sAdd)).halted = false :=
  ⟨by decide, by decide, rfl, by decide, by decide, by decide, by decide, by decide, rfl, by decide⟩

/-- Hypotheses of FetchFaultAbandonsTheCycle, for both kinds, and of HaltedMachineStandsStill. -/
theorem witness_fetch_fault :
    sUnmapped.runs = true ∧ stalls sUnmapped = false ∧
    busRead sUnmapped.cfg sUnmapped.mem (fetchAddr sUnmapped) .word = .error .unmappedAddress ∧
    sMisaligned.runs = true ∧ stalls sMisaligned = false ∧
    busRead sMisaligned.cfg sMisaligned.mem (fetchAddr sMisaligned) .word = .error .misalignedAccess ∧
    step sUnmapped = .next sHalted ∧ sHalted.halted = true :=
  ⟨by decide, by decide, by decide, by decide, by decide, by decide, rfl, by decide⟩

/-- Hypotheses of FrozenCycleOnlyCounts. -/
theorem witness_frozen :
    ({ sAdd with freezeIn := [true, false] } : State).halted = false ∧
    ({ sAdd with freezeIn := [true, false] } : State).freezeIn = true :: [false] := by decide

/-- Hypotheses of NoStepReadsTheCycleCount: two states that differ. -/
theorem witness_cycle_count :
    sHalted.timeless = ({ sHalted with cycleCount := 99 } : State).timeless ∧
    sAdd.timeless = ({ sAdd with cycleCount := 7 } : State).timeless ∧ sAdd ≠ { sAdd with cycleCount := 7 } ∧
    step sAdd = .next (nextOr (step sAdd)) :=
  ⟨rfl, rfl, by decide, rfl⟩

/-- StepIsTheCycleFunction at a halted, a frozen and a running machine: the input taken, and the core's next state. -/
theorem witness_cycle_function :
    cycleOf Config.default false sHalted.toCoreState = sHalted.toCoreState ∧
    cycleOf Config.default true sAdd.toCoreState = { sAdd.toCoreState with cycleCount := 1 } ∧
    (cycleOf Config.default false sAdd.toCoreState).d.rs1Value = 5#32 ∧
    (nextOr (step { sAdd with freezeIn := [true, false] })).freezeIn = [false] := by decide

/-- Hypotheses of StepRunsTheDecodedInstruction, RawFieldsComeFromTheWord, ImmediateFollowsTheFormat, ClassFlagsAndWriteEnable,
TransfersResolveInDecode, PipelineRefinesSequentialExecution and UnstalledOperandsAreFinal, and of the result statements that
have no memory access (AluRegResults, AluImmResults, LuiResult, JumpResults, BranchResults). -/
theorem witness_decoded :
    sAdd.runs = true ∧ sAdd.d.branchValid = false ∧ stalls sAdd = false ∧
    decode sAdd.f.instruction = .instr (.add 3#5 1#5 2#5) ∧ sAdd.fetches 0#32 ∧ hazard sAdd.f.instruction sAdd = false ∧
    sAdd.f.pcPlus4 = sAdd.f.pc + 4#32 ∧ (Instr.add 3#5 1#5 2#5).cls ∈ [Class.aluReg, .store, .branch] ∧
    (Instr.add 3#5 1#5 2#5).cls ∉ [Class.jal, .jalr, .branch] :=
  ⟨by decide, by decide, by decide, by decide, by unfold State.fetches; decide, by decide, by decide, by decide, by decide⟩

/-- Both cases of JumpResults: with `LINK_WRITE` and without. -/
theorem witness_link_write :
    sAdd.cfg.linkWrite = true ∧ (ready { Config.default with linkWrite := false } 0x010000EF#32 [] []).cfg.linkWrite = false ∧
    (ready { Config.default with linkWrite := false } 0x010000EF#32 [] []).d.branchValid = false ∧
    (ready { Config.default with linkWrite := false } 0x010000EF#32 [] []).fetches 0#32 :=
  ⟨by decide, by decide, by decide, by unfold State.fetches; decide⟩

/-- Hypotheses of SquashedWordHasNoEffect and of StallAndSquashKeepTheArchitecture. -/
theorem witness_squash :
    sSquash.runs = true ∧ sSquash.d.branchValid = true ∧ step sSquash = .next (nextOr (step sSquash)) ∧
    (nextOr (step sSquash)).halted = false ∧ sStall.runs = true ∧ stalls sStall = true :=
  ⟨by decide, by decide, rfl, by decide, by decide, by decide⟩

/-- Hypotheses of UnrecognisedWordIsABubble. -/
theorem witness_unrecognised :
    sUnknown.runs = true ∧ sUnknown.d.branchValid = false ∧ decode sUnknown.f.instruction = .reject .unknownOpcode ∧
    sUnknown.fetches 0#32 :=
  ⟨by decide, by decide, by decide, by unfold State.fetches; decide⟩

/-- Hypotheses of BubblesAreInert's last clause, and the stall condition's sides both occur: `none` never stalls. -/
theorem witness_bubbles :
    sAdd.d = DLatch.bubble ∧ sAdd.e = ELatch.bubble ∧ sAdd.m = MLatch.bubble ∧
    stalls { sAddNone with e := sStall.e } = false := by decide

/-- The same word about to be decoded, with the address `a` in `x8`. -/
def sAt (a : Word) : State := withRegs [(8#5, a), (9#5, 6#32)] sAdd

/-- The hypotheses that LoadResults, LoadFaults, StoreResults and StoreFaults share, whatever `x8` holds. -/
theorem witness_access (a : Word) : (sAt a).d.branchValid = false ∧ (sAt a).fetches 0#32 ∧ Memory.wf (sAt a).mem :=
  ⟨rfl, witness_decoded.2.2.2.2.1, by show Memory.wf sAdd.mem; decide⟩

/-- Hypotheses of LoadResults, each row at the last place of the RAM where its width fits. -/
theorem witness_load_results :
    busRead (sAt 0x2000FFFF#32).cfg (sAt 0x2000FFFF#32).arch.mem ((sAt 0x2000FFFF#32).readReg 8#5 + (0#12 : BitVec 12).signExtend 32) .byte = .ok 0#32 ∧
    busRead (sAt 0x2000FFFE#32).cfg (sAt 0x2000FFFE#32).arch.mem ((sAt 0x2000FFFE#32).readReg 8#5 + (0#12 : BitVec 12).signExtend 32) .half = .ok 0#32 ∧
    busRead (sAt 0x2000FFFC#32).cfg (sAt 0x2000FFFC#32).arch.mem ((sAt 0x2000FFFC#32).readReg 8#5 + (0#12 : BitVec 12).signExtend 32) .word = .ok 0#32 ∧
    busRead (sAt 0x20000000#32).cfg (sAt 0x20000000#32).arch.mem ((sAt 0x20000000#32).readReg 8#5 + (0#12 : BitVec 12).signExtend 32) .word = .ok 0xFEFF7F80#32 := by decide

/-- Hypotheses of LoadFaults, each row: unmapped, and for the half-word and word rows misaligned. -/
theorem witness_load_faults :
    busRead (sAt 0x20010000#32).cfg (sAt 0x20010000#32).arch.mem ((sAt 0x20010000#32).readReg 8#5 + (0#12 : BitVec 12).signExtend 32) .byte = .error .unmappedAddress ∧
    busRead (sAt 0x2000FFFF#32).cfg (sAt 0x2000FFFF#32).arch.mem ((sAt 0x2000FFFF#32).readReg 8#5 + (0#12 : BitVec 12).signExtend 32) .half = .error .misalignedAccess ∧
    busRead (sAt 0x2000FFFE#32).cfg (sAt 0x2000FFFE#32).arch.mem ((sAt 0x2000FFFE#32).readReg 8#5 + (0#12 : BitVec 12).signExtend 32) .word = .error .misalignedAccess ∧
    busRead (sAt 0x20010000#32).cfg (sAt 0x20010000#32).arch.mem ((sAt 0x20010000#32).readReg 8#5 + (0#12 : BitVec 12).signExtend 32) .half = .error .unmappedAddress ∧
    busRead (sAt 0x1FFFFFFC#32).cfg (sAt 0x1FFFFFFC#32).arch.mem ((sAt 0x1FFFFFFC#32).readReg 8#5 + (0#12 : BitVec 12).signExtend 32) .word = .error .unmappedAddress := by decide

/-- Hypotheses of StoreResults, each row at the last place of the RAM where its width fits. -/
theorem witness_store_results :
    ((sAt 0x2000FFFF#32).readReg 8#5 + (0#12 : BitVec 12).signExtend 32).toNat % Width.byte.bytes = 0 ∧ deviceAt (sAt 0x2000FFFF#32).cfg ((sAt 0x2000FFFF#32).readReg 8#5 + (0#12 : BitVec 12).signExtend 32) = .ram ∧
    ((sAt 0x2000FFFE#32).readReg 8#5 + (0#12 : BitVec 12).signExtend 32).toNat % Width.half.bytes = 0 ∧ deviceAt (sAt 0x2000FFFE#32).cfg ((sAt 0x2000FFFE#32).readReg 8#5 + (0#12 : BitVec 12).signExtend 32) = .ram ∧
    ((sAt 0x2000FFFC#32).readReg 8#5 + (0#12 : BitVec 12).signExtend 32).toNat % Width.word.bytes = 0 ∧ deviceAt (sAt 0x2000FFFC#32).cfg ((sAt 0x2000FFFC#32).readReg 8#5 + (0#12 : BitVec 12).signExtend 32) = .ram := by decide

/-- Hypotheses of StoreFaults: each kind of error. -/
theorem witness_store_faults :
    busWrite (sAt 0x1000FFFF#32).cfg ((sAt 0x1000FFFF#32).readReg 8#5 + (0#12 : BitVec 12).signExtend 32) .byte ((sAt 0x1000FFFF#32).readReg 9#5) = .error .readOnlyViolation ∧
    busWrite (sAt 0x2000FFFF#32).cfg ((sAt 0x2000FFFF#32).readReg 8#5 + (0#12 : BitVec 12).signExtend 32) .half ((sAt 0x2000FFFF#32).readReg 9#5) = .error .misalignedAccess ∧
    busWrite (sAt 0x20010000#32).cfg ((sAt 0x20010000#32).readReg 8#5 + (0#12 : BitVec 12).signExtend 32) .word ((sAt 0x20010000#32).readReg 9#5) = .error .unmappedAddress := by decide

/-- Hypotheses of DecodeChangesOnlyItsLatch: two instructions that run, and a cycle that halts. -/
theorem witness_decode_latch :
    exec (.add 3#5 1#5 2#5) sAdd = .next (nextOr (exec (.add 3#5 1#5 2#5) sAdd)) ∧
    exec (.jal 1#5 16#21) sAdd = .next (nextOr (exec (.jal 1#5 16#21) sAdd)) ∧ sUnmapped.halted = false ∧
    (nextOr (exec (.add 3#5 1#5 2#5) sUnmapped)).halted = true :=
  ⟨rfl, rfl, by decide, by decide⟩

/-- Hypotheses of RunReachesTheDrainedState and StallLastsAtMostThreeCycles. -/
theorem witness_drain :
    sStall.halted = false ∧ sStall.freezeIn = [] ∧ (nextOr (runFor 2 sStall)).halted = false ∧
    (nextOr (runFor 3 sStall)).halted = false := by decide

/-- Reset meets the invariant (hypothesis of StepKeepsTheInvariant, HostSetupKeepsTheInvariant and RomIsNeverWritten). -/
theorem witness_inv : State.reset.Inv where
  config := by decide
  latchF := ⟨by decide, by decide, .inr ⟨rfl, rfl⟩⟩
  latchD :=
    ⟨.inl rfl, by decide, fun h => absurd h (by decide), fun h => absurd h (by decide), by decide, by decide, fun _ => rfl⟩
  latchE := ⟨by decide, fun h => absurd h (by decide), fun h => absurd h (by decide), by decide⟩
  latchM := ⟨by decide⟩
  memory := ⟨by decide, by simp [State.reset, State.initial, CoreState.initial]⟩
  log :=
    ⟨by simp [State.reset, State.initial, CoreState.initial], by simp [State.reset, State.initial, CoreState.initial],
      by simp [State.reset, State.initial, CoreState.initial]⟩
  halt := ⟨rfl, by simp [State.reset, State.initial, CoreState.initial]⟩

/-- The host operations and the step from reset have a next state (hypotheses of the same statements, of
DataFaultLogGrowsByOne and of ConstructedStateMeetsTheInvariant). -/
theorem witness_from_reset :
    step State.reset = .next (nextOr (step State.reset)) ∧
    State.construct Config.default = .next State.reset ∧
    romLoad [0x13#32] State.reset = .next (nextOr (romLoad [0x13#32] State.reset)) ∧
    setReg 31#5 1#32 State.reset = .next (nextOr (setReg 31#5 1#32 State.reset)) ∧
    hostWrite 0x20000000#32 .word 1#32 State.reset = .next (nextOr (hostWrite 0x20000000#32 .word 1#32 State.reset)) ∧
    deviceAt State.reset.cfg 0x1000FFFF#32 = .rom ∧ sHalted.halted = true :=
  ⟨rfl, rfl, rfl, rfl, rfl, by decide, by decide⟩

/-- A step that logs a fault, and one that logs none (DataFaultLogGrowsByOne). -/
theorem witness_fault_log :
    (nextOr (step (sLoad 0b010#3 0x20010000#32))).dataFaults.length = 1 ∧
    (nextOr (step sAdd)).dataFaults.length = 0 := by decide

/-- Hypotheses of RomLoadWritesTheImage (an image that fills a two-word ROM, and one word more), HostRegisterWrite and
HostBusWrite, before and after the first cycle. -/
theorem witness_host :
    configOk { Config.default with romSize := 8 } = true ∧ Memory.wf (State.initial { Config.default with romSize := 8 }).mem ∧
    (State.initial { Config.default with romSize := 8 }).cycleCount = 0 ∧ ([1#32, 2#32] : List Word).length ≤ 8 / 4 ∧
    8 / 4 < ([1#32, 2#32, 3#32] : List Word).length ∧ (nextOr (step State.reset)).cycleCount ≠ 0 ∧
    busWrite State.reset.cfg 0x10000000#32 .byte 1#32 = .error .readOnlyViolation ∧
    busWrite State.reset.cfg 0x2000FFFF#32 .byte 1#32 = .ok { addr := 0x2000FFFF, bytes := [1#8] } := by decide

/-- Hypotheses of FetchWordRunsInTheNextStep, DecodeOfEncode, EncodeOfDecode and DecoderFollowsTheOpcodeTable. -/
theorem witness_encoding :
    decode 0xFFFFFFE3#32 = .instr (.bgeu 31#5 31#5 0x1FFE#13) ∧ (Instr.bgeu 31#5 31#5 0x1FFE#13).wf = true ∧
    (∃ r ∈ opcodeTable, r.mnemonic = "BGEU" ∧ 0xFFFFFFE3#32 &&& r.mask = r.pattern) := by decide

end Sys2Proof.Tests
end

section
/-! Proofs of the statements about the state: the registers, construction, the invariant and the cycle function. -/

namespace Sys2Proof.Machine

/-! ## Registers and construction -/

/-- Settles O7 with the laws of the register file, by whether the register read is the one written. -/
theorem registerZeroAndRegisterFile : Obligations.RegisterZeroAndRegisterFile := by
  refine ⟨fun s => readFile_zero s.x, fun x i j v => ⟨writeFile_zero x v, fun hi => ?_⟩⟩
  split
  · next hj => rw [hj, readFile_writeFile_self x hi]
  · next hj => exact readFile_writeFile_ne x hj v

theorem construct_of_configOk {c : Config} (hc : configOk c = true) : State.construct c = .next (State.initial c) :=
  if_pos hc

/-- Construction answers a state for a legal configuration only, and it is the initial one (R350, R73). -/
theorem construct_next {c : Config} {s : State} (h : State.construct c = .next s) :
    configOk c = true ∧ s = State.initial c := by
  unfold State.construct at h
  split at h
  · next hc => exact ⟨hc, by injection h with h; exact h.symm⟩
  · cases h

theorem readReg_initial (c : Config) (i : RegIdx) : (State.initial c).readReg i = 0#32 := by
  simp [State.readReg, readFile]

/-- Settles O1: the state constructed is the initial one, whose fields the laws of `State.initial` give. -/
theorem constructionLeavesTheResetState : Obligations.ConstructionLeavesTheResetState := fun c hc =>
  ⟨State.initial c, construct_of_configOk hc, rfl, readReg_initial c, rfl, rfl, rfl, rfl, fun _ => rfl, rfl, rfl, rfl, rfl⟩

/-! ## Legal latches -/

theorem fetchStage_legal {s : State} {w : Word} (h : s.fetches w) :
    FLatch.Legal s.cfg { pc := fetchAddr s, pcPlus4 := fetchAddr s + 4#32, instruction := w } := by
  obtain ⟨ha, hd, -⟩ := busRead_ok_iff.1 h
  exact ⟨ha, hd, .inl rfl⟩

theorem bubble_legal : DLatch.bubble.Legal := by
  constructor <;> simp [DLatch.bubble]

/-- The write enable of a class that writes back rules out `x0` (R166). -/
theorem rd_ne_zero_of_enable {b : Bool} {rd : RegIdx} (h : (b && rd != 0#5) = true) : rd ≠ 0#5 := by
  simpa using (Bool.and_eq_true_iff.1 h).2

theorem aluRegLatch_legal (r : RawFields) (s : State) : (aluRegLatch r s).Legal where
  one_class := .inr rfl
  alu_form _ := rfl
  load_form := nofun
  store_form := nofun
  writes_back h := ⟨bne_iff_ne.1 h, rfl, rfl⟩
  transfers := nofun
  no_target _ := rfl

theorem aluImmLatch_legal (r : RawFields) (imm : Word) (s : State) : (aluImmLatch r imm s).Legal where
  one_class := .inr rfl
  alu_form := nofun
  load_form := nofun
  store_form := nofun
  writes_back h := ⟨bne_iff_ne.1 h, rfl, rfl⟩
  transfers := nofun
  no_target _ := rfl

theorem loadLatch_legal {r : RawFields} (hf : loadFunct3 r.funct3) (imm : Word) (s : State) : (loadLatch r imm s).Legal where
  one_class := .inr rfl
  alu_form := nofun
  load_form _ := hf
  store_form := nofun
  writes_back h := ⟨bne_iff_ne.1 h, rfl, rfl⟩
  transfers := nofun
  no_target _ := rfl

theorem storeLatch_legal {r : RawFields} (hf : storeFunct3 r.funct3) (imm : Word) (s : State) : (storeLatch r imm s).Legal where
  one_class := .inr rfl
  alu_form := nofun
  load_form := nofun
  store_form _ := hf
  writes_back := nofun
  transfers := nofun
  no_target _ := rfl

theorem luiLatch_legal (r : RawFields) (imm : Word) (s : State) : (luiLatch r imm s).Legal where
  one_class := .inr rfl
  alu_form := nofun
  load_form := nofun
  store_form := nofun
  writes_back h := ⟨bne_iff_ne.1 h, rfl, rfl⟩
  transfers := nofun
  no_target _ := rfl

theorem jalLatch_legal (r : RawFields) (imm : Word) (s : State) : (jalLatch r imm s).Legal where
  one_class := .inr rfl
  alu_form := nofun
  load_form := nofun
  store_form := nofun
  writes_back h := ⟨rd_ne_zero_of_enable h, rfl, rfl⟩
  transfers _ := .inl rfl
  no_target := nofun

theorem jalrLatch_legal (r : RawFields) (imm : Word) (s : State) : (jalrLatch r imm s).Legal where
  one_class := .inr rfl
  alu_form := nofun
  load_form := nofun
  store_form := nofun
  writes_back h := ⟨rd_ne_zero_of_enable h, rfl, rfl⟩
  transfers _ := .inr (.inl rfl)
  no_target := nofun

theorem branchLatch_legal (r : RawFields) (imm : Word) (taken : Bool) (s : State) : (branchLatch r imm taken s).Legal where
  one_class := .inr rfl
  alu_form := nofun
  load_form := nofun
  store_form := nofun
  writes_back := nofun
  transfers _ := .inr (.inr rfl)
  no_target h := by
    have ht : taken = false := h
    simp [branchLatch, ht]

/-- Decode makes a legal D latch of every instruction: class by class, with the funct3 of each load and store (R280). -/
theorem decodedLatch_legal (i : Instr) (s : State) : (decodedLatch i s).Legal := by
  cases i with
  | add | sub | sll | slt | sltu | xor | srl | sra | or | and => exact aluRegLatch_legal _ _
  | addi | slti | sltiu | xori | ori | andi | slli | srli | srai => exact aluImmLatch_legal _ _ _
  | lb | lh | lw | lbu | lhu => exact loadLatch_legal (by simp [loadFunct3, rawI]) _ _
  | sb | sh | sw => exact storeLatch_legal (by simp [storeFunct3, rawS]) _ _
  | lui => exact luiLatch_legal _ _ _
  | jal => exact jalLatch_legal _ _ _
  | jalr => exact jalrLatch_legal _ _ _
  | beq | bne | blt | bge | bltu | bgeu => exact branchLatch_legal _ _ _ _

/-- A D latch has at most one class flag, so a load is no store (R165). -/
theorem DLatch.Legal.isStore_of_isLoad {d : DLatch} (hd : d.Legal) (hl : d.isLoad = true) : d.isStore = false := by
  rcases hd.one_class with rfl | h1
  · rfl
  · rw [← Bool.not_eq_true]
    intro hs
    simp only [DLatch.classFlags, hl, hs, Bool.toNat_true] at h1
    omega

theorem executeStage_legal (c : Config) {d : DLatch} (hd : d.Legal) : (executeStage c d).Legal where
  one_access := hd.isStore_of_isLoad
  load_form := hd.load_form
  store_form hs := ⟨hd.store_form hs, by
    rw [← Bool.not_eq_true]
    intro hw
    obtain ⟨-, hns, -⟩ := hd.writes_back hw
    exact Bool.false_ne_true (hns.symm.trans hs)⟩
  writes_back hw := (hd.writes_back hw).1

theorem memoryStage_legal (c : Config) (mem : Memory) {e : ELatch} (he : e.Legal) : (memoryStage c mem e).m.Legal where
  writes_back hv := by
    obtain ⟨hrd, hwb⟩ := memoryStage_m c mem e
    rw [hrd]
    exact he.writes_back (hwb hv)

/-! ## Real faults -/

/-- The errors of a bus read, with the priority of R76. -/
theorem busRead_error_cases {c : Config} {m : Memory} {a : Word} {n : Width} {k : BusError} (h : busRead c m a n = .error k) :
    (k = .misalignedAccess ∧ aligned a n = false) ∨
    (k = .unmappedAddress ∧ aligned a n = true ∧ deviceAt c a = .unmapped) := by
  unfold busRead at h
  cases ha : aligned a n <;> cases hd : deviceAt c a <;> simp_all

/-- The errors of a bus write, with the priority of R76. -/
theorem busWrite_error_cases {c : Config} {a : Word} {n : Width} {v : Word} {k : BusError} (h : busWrite c a n v = .error k) :
    (k = .misalignedAccess ∧ aligned a n = false) ∨
    (k = .unmappedAddress ∧ aligned a n = true ∧ deviceAt c a = .unmapped) ∨
    (k = .readOnlyViolation ∧ aligned a n = true ∧ deviceAt c a = .rom) := by
  unfold busWrite at h
  cases ha : aligned a n <;> cases hd : deviceAt c a <;> simp_all

theorem fetchFault_real {c : Config} {m : Memory} {a : Word} {k : BusError} (h : busRead c m a .word = .error k) (n : Nat) :
    FetchFaultRecord.Real c { cycle := n, kind := k, addr := a } := by
  rcases busRead_error_cases h with ⟨rfl, ha⟩ | ⟨rfl, ha, hd⟩
  · exact ha
  · exact ⟨ha, hd⟩

theorem loadFault_real {c : Config} {m : Memory} {a : Word} {n : Width} {k : BusError} (h : busRead c m a n = .error k)
    (cycle : Nat) : DataFaultRecord.Real c { cycle := cycle, kind := k, access := .load, addr := a, width := n } := by
  rcases busRead_error_cases h with ⟨rfl, ha⟩ | ⟨rfl, ha, hd⟩
  · exact ha
  · exact ⟨ha, hd⟩

theorem storeFault_real {c : Config} {a : Word} {n : Width} {v : Word} {k : BusError} (h : busWrite c a n v = .error k)
    (cycle : Nat) : DataFaultRecord.Real c { cycle := cycle, kind := k, access := .store, addr := a, width := n } := by
  rcases busWrite_error_cases h with ⟨rfl, ha⟩ | ⟨rfl, ha, hd⟩ | ⟨rfl, ha, hd⟩
  · exact ha
  · exact ⟨ha, hd⟩
  · exact ⟨ha, hd, rfl⟩

/-- A fault that MemoryAccess hands to the commit is a real one, whatever cycle number is put to it. -/
theorem memoryStage_fault_real {c : Config} {mem : Memory} {e : ELatch} {p : PendingFault}
    (h : (memoryStage c mem e).fault = some p) (cycle : Nat) : (p.stamp cycle).Real c := by
  unfold memoryStage storePath loadPath at h
  split at h
  · split at h
    · cases h
    · next hw => cases h; exact storeFault_real hw cycle
  · split at h
    · split at h
      · cases h
      · next hr => cases h; exact loadFault_real hr cycle
    · cases h

/-! ## Memory of mapped bytes -/

/-- The store that MemoryAccess stages: an aligned access to RAM (R175, R78). -/
theorem memoryStage_write_ram {c : Config} {mem : Memory} {e : ELatch} {w : StagedWrite}
    (h : (memoryStage c mem e).write = some w) :
    ∃ (a : Word) (n : Width) (v : Word), aligned a n = true ∧ deviceAt c a = .ram ∧
      w = { addr := a.toNat, bytes := lowBytes v n } := by
  unfold memoryStage storePath loadPath at h
  split at h
  · split at h
    · next hw => cases h; exact ⟨_, _, _, busWrite_ok_iff.1 hw⟩
    · cases h
  · split at h
    · split at h <;> cases h
    · cases h

/-- A cell of memory after a write of bytes was there before, or is at one of the addresses written. -/
theorem mem_writeBytes {m : Memory} {a : Nat} {bs : List Byte} {cell : Host.Cell} (h : cell ∈ Memory.writeBytes m a bs) :
    cell ∈ m ∨ ∃ k, k < bs.length ∧ cell.1 = a + k := by
  induction bs generalizing m a with
  | nil => exact .inl h
  | cons b bs ih =>
    rcases ih h with h | ⟨k, hk, hc⟩
    · rcases mem_writeByte h with rfl | h
      · exact .inr ⟨0, by simp, rfl⟩
      · exact .inl h
    · exact .inr ⟨k + 1, by simpa using hk, by omega⟩

/-- An aligned write to a mapped address lists mapped bytes only, for all its bytes route to the same device (R73). -/
theorem MemoryLegal.writeBytes {c : Config} {m : Memory} (hm : MemoryLegal c m) (hc : configOk c = true) {a : Word} {n : Width}
    (ha : aligned a n = true) (hd : deviceAt c a ≠ .unmapped) (v : Word) :
    MemoryLegal c (Memory.writeBytes m a.toNat (lowBytes v n)) where
  canonical := wf_writeBytes hm.canonical _ _
  mapped cell hcell := by
    rcases mem_writeBytes hcell with hcell | ⟨k, hk, hk'⟩
    · exact hm.mapped cell hcell
    · rw [length_lowBytes] at hk
      exact ⟨a + BitVec.ofNat 32 k, by rw [toNat_add_of_aligned ha hk, hk'], by rwa [deviceAt_of_aligned hc ha hk]⟩

theorem MemoryLegal.memoryStage {c : Config} {m : Memory} (hm : MemoryLegal c m) (hc : configOk c = true) (e : ELatch) :
    MemoryLegal c (applyWrite m (memoryStage c m e).write) := by
  cases h : (Machine.memoryStage c m e).write with
  | none => exact hm
  | some w =>
    obtain ⟨a, n, v, ha, hd, rfl⟩ := memoryStage_write_ram h
    exact hm.writeBytes hc ha (by simp [hd]) v

/-! ## The log -/

/-- The log of an earlier cycle is legal in a later one. -/
theorem LogLegal.mono {c : Config} {n n' : Nat} {log : List DataFaultRecord} (h : LogLegal c n log) (hn : n ≤ n') :
    LogLegal c n' log where
  real := h.real
  rising := h.rising
  past r hr := (h.past r hr).trans hn

/-- The next cycle may append a real fault under its own number (R51, R332). -/
theorem LogLegal.append {c : Config} {n : Nat} {log : List DataFaultRecord} (h : LogLegal c n log) {r : DataFaultRecord}
    (hr : r.Real c) (hn : r.cycle = n + 1) : LogLegal c (n + 1) (log ++ [r]) where
  real q hq := by
    rcases List.mem_append.1 hq with hq | hq
    · exact h.real q hq
    · rwa [List.mem_singleton.1 hq]
  rising := by
    refine List.pairwise_append.2 ⟨h.rising, List.pairwise_singleton _ _, fun q hq p hp => ?_⟩
    rw [List.mem_singleton.1 hp, hn]
    exact Nat.lt_succ_of_le (h.past q hq)
  past q hq := by
    rcases List.mem_append.1 hq with hq | hq
    · exact (h.past q hq).trans (Nat.le_succ n)
    · rw [List.mem_singleton.1 hq, hn]

/-- A committed cycle leaves the log as it was or appends one real fault with the cycle's number (R175, R176). -/
theorem commit_dataFaults_cases (f' : FLatch) (d' : DLatch) (s : State) :
    (commit f' d' s).dataFaults = s.dataFaults ∨
    ∃ r : DataFaultRecord, r.Real s.cfg ∧ r.cycle = s.cycleCount ∧ (commit f' d' s).dataFaults = s.dataFaults ++ [r] := by
  rw [commit_dataFaults]
  cases h : (memoryStage s.cfg s.mem s.e).fault with
  | none => exact .inl (List.append_nil _)
  | some p => exact .inr ⟨p.stamp s.cycleCount, memoryStage_fault_real h _, rfl, rfl⟩

/-! ## The invariant -/

/-- A machine that runs on has no fetch-fault record (R49, R50). -/
theorem State.Inv.fetchFault_none {s : State} (h : s.Inv) (hh : s.halted = false) : s.fetchFault = none := by
  rw [← Option.isNone_iff_eq_none, ← Option.not_isSome, ← h.halt.together, hh]
  rfl

theorem haltLegal_of_running {s : State} (hh : s.halted = false) (hf : s.fetchFault = none) : HaltLegal s where
  together := by rw [hh, hf]; rfl
  real r hr := by simp [hf] at hr

theorem State.Inv.dropFreeze {s : State} (h : s.Inv) : s.dropFreeze.Inv where
  config := h.config
  latchF := h.latchF
  latchD := h.latchD
  latchE := h.latchE
  latchM := h.latchM
  memory := h.memory
  log := h.log
  halt := ⟨h.halt.together, h.halt.real⟩

theorem State.Inv.tick {s : State} (h : s.Inv) (hh : s.halted = false) : s.tick.Inv where
  config := h.config
  latchF := h.latchF
  latchD := h.latchD
  latchE := h.latchE
  latchM := h.latchM
  memory := h.memory
  log := h.log.mono (Nat.le_succ _)
  halt := haltLegal_of_running hh (h.fetchFault_none hh)

/-- A cycle that commits legal F and D latches keeps the invariant. -/
theorem State.Inv.commit {s : State} (h : s.Inv) (hh : s.halted = false) {f' : FLatch} (hf : f'.Legal s.cfg) {d' : DLatch}
    (hd : d'.Legal) : (commit f' d' s.tick).Inv where
  config := by simpa using h.config
  latchF := by simpa using hf
  latchD := by simpa using hd
  latchE := by simpa using executeStage_legal s.cfg h.latchD
  latchM := by simpa using memoryStage_legal s.cfg s.mem h.latchE
  memory := by simpa using h.memory.memoryStage h.config s.e
  log := by
    simp only [commit_cfg, commit_cycleCount, tick_cfg, tick_cycleCount]
    rcases commit_dataFaults_cases f' d' s.tick with e | ⟨r, hr, hn, e⟩
    · rw [e]; exact h.log.mono (Nat.le_succ _)
    · rw [e]; exact h.log.append hr hn
  halt := haltLegal_of_running (by simpa using hh) (by simpa using h.fetchFault_none hh)

/-- A cycle that a fetch fault abandons keeps the invariant: the machine halts with a real record of its count (R160). -/
theorem State.Inv.raiseFetchFault {s : State} (h : s.Inv) (hh : s.halted = false) {m : Memory} {a : Word} {k : BusError}
    (hk : busRead s.cfg m a .word = .error k) : (s.tick.raiseFetchFault k a).Inv where
  config := h.config
  latchF := h.latchF
  latchD := h.latchD
  latchE := h.latchE
  latchM := h.latchM
  memory := h.memory
  log := (h.tick hh).log
  halt := ⟨rfl, fun r hr => by
    obtain rfl : _ = r := Option.some.inj hr
    exact ⟨fetchFault_real hk _, rfl⟩⟩

theorem State.Inv.advance {s : State} (h : s.Inv) (hh : s.halted = false) {d' : DLatch} (hd : d'.Legal) :
    (advance d' s).Inv := by
  rcases advance_cases d' s with ⟨w, hw, e⟩ | ⟨k, hk, e⟩
  · rw [e]; exact h.commit hh (fetchStage_legal hw) hd
  · rw [e]; exact h.raiseFetchFault hh hk

/-- Settles O41: each case of a step keeps the invariant, the D latch it makes being a bubble or a decoded one. -/
theorem stepKeepsTheInvariant : Obligations.StepKeepsTheInvariant := by
  intro s t h ht
  have hq := h.dropFreeze
  rcases step_cases s with ⟨-, e⟩ | ⟨hh, -, e⟩ | ⟨hr, -, e⟩ | ⟨hr, -, d', e, hd⟩ <;>
    obtain rfl := Host.Outcome.next.inj (e.symm.trans ht)
  · exact h
  · exact hq.tick hh
  · exact hq.commit (runs_iff.1 hr).1 hq.latchF bubble_legal
  · refine hq.advance (runs_iff.1 hr).1 ?_
    rcases hd with rfl | ⟨i, -, -, rfl⟩
    · exact bubble_legal
    · exact decodedLatch_legal i s

/-- The entry point of a legal configuration is a word address in ROM (R73). -/
theorem romBase_aligned_rom {c : Config} (hc : configOk c = true) :
    aligned c.romBase .word = true ∧ deviceAt c c.romBase = .rom := by
  obtain ⟨halign, -, hsize, -⟩ := regionOk_iff.1 ((configOk_iff.1 hc).1 (romRegion c) List.mem_cons_self)
  refine ⟨aligned_iff.2 halign, deviceAt_rom_iff.2 (inRegion_iff.2 ⟨le_rfl, ?_⟩)⟩
  exact Nat.lt_add_of_pos_right hsize

/-- The initial state of a legal configuration meets the invariant: empty latches, memory and log. -/
theorem initial_inv {c : Config} (hc : configOk c = true) : (State.initial c).Inv where
  config := hc
  latchF := by
    obtain ⟨ha, hd⟩ := romBase_aligned_rom hc
    exact ⟨ha, by simp [hd], .inr ⟨rfl, rfl⟩⟩
  latchD := bubble_legal
  latchE := executeStage_legal c bubble_legal
  latchM := ⟨nofun⟩
  memory := ⟨⟨.nil, nofun⟩, nofun⟩
  log := ⟨nofun, .nil, nofun⟩
  halt := haltLegal_of_running rfl rfl

/-- Settles O42: construction gives the initial state of a legal configuration, and R10's defaults are one. -/
theorem constructedStateMeetsTheInvariant : Obligations.ConstructedStateMeetsTheInvariant := by
  have hdefault : configOk Config.default = true := by decide
  refine ⟨construct_of_configOk hdefault, initial_inv hdefault, fun c s h => ?_⟩
  obtain ⟨hc, rfl⟩ := construct_next h
  exact initial_inv hc

/-! ## The log grows by one record at most -/

/-- From `s` to `t` the log is kept, or the machine runs on and one record of the cycle that ended in `t` is appended
(R51, R333). -/
def LogGrows (s t : State) : Prop :=
  t.dataFaults = s.dataFaults ∨
  (t.halted = false ∧ ∃ r, t.dataFaults = s.dataFaults ++ [r] ∧ r.cycle = t.cycleCount)

theorem logGrows_commit {s : State} (hh : s.halted = false) (f' : FLatch) (d' : DLatch) :
    LogGrows s (commit f' d' s.tick) := by
  rcases commit_dataFaults_cases f' d' s.tick with e | ⟨r, -, hn, e⟩
  · exact .inl e
  · exact .inr ⟨by simpa using hh, r, e, by simpa using hn⟩

theorem logGrows_advance {s : State} (hh : s.halted = false) (d' : DLatch) : LogGrows s (advance d' s) := by
  rcases advance_cases d' s with ⟨w, -, e⟩ | ⟨k, -, e⟩ <;> rw [e]
  · exact logGrows_commit hh _ d'
  · exact .inl rfl

theorem logGrows_step {s t : State} (ht : step s = .next t) : LogGrows s t := by
  rcases step_cases s with ⟨-, e⟩ | ⟨-, -, e⟩ | ⟨hr, -, e⟩ | ⟨hr, -, d', e, -⟩ <;>
    obtain rfl := Host.Outcome.next.inj (e.symm.trans ht)
  · exact .inl rfl
  · exact .inl rfl
  · exact logGrows_commit (s := s.dropFreeze) (runs_iff.1 hr).1 _ _
  · exact logGrows_advance (s := s.dropFreeze) (runs_iff.1 hr).1 d'

/-- Settles O45: only a cycle that commits can append, and it leaves the machine running. -/
theorem dataFaultLogGrowsByOne : Obligations.DataFaultLogGrowsByOne := by
  intro s t ht
  rcases logGrows_step ht with e | ⟨hh, hr⟩
  · exact ⟨.inl e, fun _ => e⟩
  · exact ⟨.inr hr, fun hh' => absurd (hh.symm.trans hh') Bool.false_ne_true⟩

/-! ## Decode's output enters the D latch only -/

theorem logFault_with_d (s : State) (p : Option PendingFault) (d' : DLatch) :
    { s.logFault p with d := d' } = State.logFault { s with d := d' } p := by
  cases p <;> rfl

theorem commit_with_d (f' : FLatch) (d₁ d₂ : DLatch) (s : State) : { commit f' d₁ s with d := d₂ } = commit f' d₂ s :=
  logFault_with_d _ _ _

/-- Settles O35: every meaning is the shared cycle, which reads Decode's output only when the fetch succeeds, and then commits
it to the D latch without halting. -/
theorem decodeChangesOnlyItsLatch : Obligations.DecodeChangesOnlyItsLatch := by
  intro i j s t t' ht ht'
  obtain rfl := Host.Outcome.next.inj ((exec_eq i s).symm.trans ht)
  obtain rfl := Host.Outcome.next.inj ((exec_eq j s).symm.trans ht')
  cases h : busRead s.cfg s.mem (fetchAddr s) .word with
  | error k =>
    rw [advance_of_error h, advance_of_error h]
    exact ⟨rfl, fun _ _ => rfl⟩
  | ok w =>
    rw [advance_of_fetches h, advance_of_fetches h, commit_d]
    refine ⟨commit_with_d _ _ _ _, fun hh hh' => ?_⟩
    simp [hh] at hh'

/-! ## The next state as a function

`step` always answers a next state (log entry 10); these name it. -/

/-- Decode's output when it does not stall: a bubble for a squashed or unrecognised word (R154, R310). -/
def decodeOutput (s : State) : DLatch :=
  if squashes s then DLatch.bubble
  else
    match decode s.f.instruction with
    | .reject _ => DLatch.bubble
    | .instr i => decodedLatch i s

/-- The state after a running cycle. -/
def runNext (s : State) : State := if stalls s then stallCycle s else advance (decodeOutput s) s

/-- The state after one `Cycle` call. -/
def cycleNext (freeze : Bool) (s : State) : State :=
  if s.halted then s else if freeze then s.tick else runNext s

theorem runCycle_eq (s : State) : runCycle s = .next (runNext s) := by
  unfold runCycle runNext decodeOutput
  by_cases hq : squashes s = true
  · simp [hq, stalls]
  · cases hd : decode s.f.instruction with
    | reject why => simp [hq, stalls, hazard, hd]
    | instr i => by_cases hs : stalls s = true <;> simp [hq, hs, exec_eq]

theorem cycle_eq (freeze : Bool) (s : State) : cycle freeze s = .next (cycleNext freeze s) := by
  unfold cycle cycleNext
  rw [runCycle_eq]
  split
  · rfl
  · split <;> rfl

theorem step_of_halted {s : State} (hh : s.halted = true) : step s = .next s := if_pos hh

theorem step_of_not_halted {s : State} (hh : s.halted = false) :
    step s = .next (cycleNext (nextFreeze s) s.dropFreeze) := by
  rw [step, if_neg (by simp [hh]), cycle_eq]

/-! ## Cycle numbers do not enter a cycle -/

theorem halted_timeless (s : State) : s.timeless.halted = s.halted := rfl

theorem nextFreeze_timeless (s : State) : nextFreeze s.timeless = nextFreeze s := rfl

theorem timeless_tick (s : State) : s.tick.timeless = s.timeless := rfl

theorem timeless_dropFreeze (s : State) : s.dropFreeze.timeless = s.timeless.dropFreeze := rfl

theorem timeless_raiseFetchFault (s : State) (k : BusError) (a : Word) :
    (s.raiseFetchFault k a).timeless = s.timeless.raiseFetchFault k a := rfl

theorem timeless_logFault (s : State) (p : Option PendingFault) : (s.logFault p).timeless = s.timeless.logFault p := by
  cases p with
  | none => rfl
  | some p => simp [State.logFault, State.raiseDataFault, State.timeless]

theorem timeless_commit (f' : FLatch) (d' : DLatch) (s : State) : (commit f' d' s).timeless = commit f' d' s.timeless :=
  timeless_logFault _ _

theorem fetchStage_timeless (s : State) : fetchStage s.timeless = fetchStage s := rfl

theorem fetchAddr_timeless (s : State) : fetchAddr s.timeless = fetchAddr s := rfl

theorem stalls_timeless (s : State) : stalls s.timeless = stalls s := rfl

theorem decodedLatch_timeless (i : Instr) (s : State) : decodedLatch i s.timeless = decodedLatch i s := by
  cases i <;> rfl

theorem decodeOutput_timeless (s : State) : decodeOutput s.timeless = decodeOutput s := by
  unfold decodeOutput
  simp only [decodedLatch_timeless]
  rfl

/-- The count reaches only the count and the records of a cycle that advances. -/
theorem timeless_advance {s s' : State} (h : s.timeless = s'.timeless) (d' : DLatch) :
    (advance d' s).timeless = (advance d' s').timeless := by
  have hf : fetchStage s = fetchStage s' := by rw [← fetchStage_timeless s, h, fetchStage_timeless]
  have ha : fetchAddr s = fetchAddr s' := by rw [← fetchAddr_timeless s, h, fetchAddr_timeless]
  unfold advance
  rw [hf, ha]
  cases fetchStage s' with
  | error k => simp only [timeless_raiseFetchFault, timeless_tick, h]
  | ok f' => simp only [timeless_commit, timeless_tick, h]

theorem timeless_stallCycle (s : State) : (stallCycle s).timeless = commit s.timeless.f DLatch.bubble s.timeless :=
  timeless_commit s.f DLatch.bubble s.tick

/-- A running cycle's result but for cycle numbers depends on its start but for cycle numbers. -/
theorem timeless_runNext {s s' : State} (h : s.timeless = s'.timeless) : (runNext s).timeless = (runNext s').timeless := by
  unfold runNext
  rw [← stalls_timeless s, ← stalls_timeless s', ← decodeOutput_timeless s, ← decodeOutput_timeless s', h]
  split
  · rw [timeless_stallCycle, timeless_stallCycle, h]
  · exact timeless_advance h _

theorem timeless_cycleNext {s s' : State} (h : s.timeless = s'.timeless) (freeze : Bool) :
    (cycleNext freeze s).timeless = (cycleNext freeze s').timeless := by
  have hh : s.halted = s'.halted := by rw [← halted_timeless s, h, halted_timeless]
  unfold cycleNext
  rw [hh]
  split
  · exact h
  · split
    · exact h
    · exact timeless_runNext h

/-- Settles O15: a step's result but for cycle numbers depends on its start but for cycle numbers. -/
theorem noStepReadsTheCycleCount : Obligations.NoStepReadsTheCycleCount := by
  intro s s' t h ht
  have hh : s.halted = s'.halted := by rw [← halted_timeless s, h, halted_timeless]
  have hf : nextFreeze s = nextFreeze s' := by rw [← nextFreeze_timeless s, h, nextFreeze_timeless]
  cases hs : s.halted with
  | true =>
    obtain rfl := Host.Outcome.next.inj ((step_of_halted hs).symm.trans ht)
    exact ⟨s', step_of_halted (hh.symm.trans hs), h⟩
  | false =>
    obtain rfl := Host.Outcome.next.inj ((step_of_not_halted hs).symm.trans ht)
    refine ⟨_, step_of_not_halted (hh.symm.trans hs), ?_⟩
    rw [hf]
    exact timeless_cycleNext (by rw [timeless_dropFreeze, timeless_dropFreeze, h]) _

/-! ## A step is the cycle function of the core -/

theorem decodeOutput_inputs (s : State) (q : List Bool) : decodeOutput { s with freezeIn := q } = decodeOutput s := by
  unfold decodeOutput
  simp only [decodedLatch_inputs]
  rfl

theorem stalls_inputs (s : State) (q : List Bool) : stalls { s with freezeIn := q } = stalls s := rfl

/-- The host's inputs pass by a running cycle. -/
theorem runNext_inputs (s : State) (q : List Bool) : runNext { s with freezeIn := q } = { runNext s with freezeIn := q } := by
  unfold runNext
  rw [stalls_inputs, decodeOutput_inputs, stallCycle_inputs, advance_inputs]
  split <;> rfl

/-- The host's inputs pass by a `Cycle` call, whose own input is an argument. -/
theorem cycleNext_inputs (freeze : Bool) (s : State) (q : List Bool) :
    cycleNext freeze { s with freezeIn := q } = { cycleNext freeze s with freezeIn := q } := by
  unfold cycleNext
  rw [runNext_inputs]
  split
  · rfl
  · split <;> rfl

@[simp] theorem runNext_cfg (s : State) : (runNext s).cfg = s.cfg := by
  unfold runNext
  split
  · simp [stallCycle]
  · exact advance_cfg _ s

@[simp] theorem cycleNext_cfg (freeze : Bool) (s : State) : (cycleNext freeze s).cfg = s.cfg := by
  unfold cycleNext
  split
  · rfl
  · split
    · rfl
    · exact runNext_cfg s

theorem cycleOf_eq (c : Config) (freeze : Bool) (s : CoreState) :
    cycleOf c freeze s = (cycleNext freeze (s.under c)).toCoreState := by
  rw [cycleOf, cycle_eq, coreAfter_next]

theorem cycleNext_of_halted (freeze : Bool) {s : State} (hh : s.halted = true) : cycleNext freeze s = s := if_pos hh

/-- The next state is its core with the configuration and the inputs that stay beside it. -/
theorem cycleNext_eq_core (freeze : Bool) (s : State) (q : List Bool) :
    cycleNext freeze { s with freezeIn := q } =
      { cycleOf s.cfg freeze s.toCoreState with cfg := s.cfg, freezeIn := q } := by
  have hu : { s with freezeIn := q } = { s.toCoreState.under s.cfg with freezeIn := q } := rfl
  have hc : (cycleNext freeze (s.toCoreState.under s.cfg)).cfg = s.cfg := cycleNext_cfg _ _
  rw [hu, cycleNext_inputs, cycleOf_eq]
  generalize cycleNext freeze (s.toCoreState.under s.cfg) = t at hc
  rw [← hc]

/-- Settles O55: a `Cycle` call passes the host's inputs by and keeps the configuration, so its core is `cycleOf` of the core. -/
theorem stepIsTheCycleFunction : Obligations.StepIsTheCycleFunction := by
  intro s
  cases hs : s.halted with
  | true =>
    rw [step_of_halted hs, cycleOf_eq, cycleNext_of_halted (s := s.toCoreState.under s.cfg) _ hs]
    rfl
  | false =>
    rw [step_of_not_halted hs]
    exact congrArg Host.Outcome.next (cycleNext_eq_core (nextFreeze s) s s.freezeIn.tail)

end Sys2Proof.Machine
end

section
/-! Proofs of the statements about memory: the address map, the errors and bytes of the bus, and ROM. -/

namespace Sys2Proof.Machine

/-! ## The address map -/

theorem construct_of_not_configOk {c : Config} (hc : configOk c = false) :
    State.construct c = .refused .badConfiguration :=
  if_neg (by simp [hc])

/-- For regions that are not empty, R73's comparison of bounds says that no address lies in both: else the larger base would. -/
theorem disjointRegions_iff_no_common {r q : Region} (hr : 0 < r.size) (hq : 0 < q.size) :
    disjointRegions r q = true ↔ ∀ a, ¬ (inRegion r a = true ∧ inRegion q a = true) := by
  simp only [disjointRegions_iff, inRegion_iff]
  constructor
  · intro h a ha
    omega
  · intro h
    have hrb := h r.base
    have hqb := h q.base
    omega

/-- The model's check is R73's conditions and R10's RAM region: its comparison of bounds is R73's disjointness, every region having
a size above 0. -/
theorem configOk_iff_regions {c : Config} :
    configOk c = true ↔
      (∀ r ∈ romRegion c :: c.ramRegions,
        r.base.toNat % 4 = 0 ∧ r.size % 4 = 0 ∧ 0 < r.size ∧ r.base.toNat + r.size ≤ 2 ^ 32) ∧
      (romRegion c :: c.ramRegions).Pairwise (fun r q => ∀ a, ¬ (inRegion r a = true ∧ inRegion q a = true)) ∧
      c.ramRegions ≠ [] := by
  simp only [configOk_iff, regionOk_iff]
  refine and_congr_right fun hok => and_congr_left' (List.Pairwise.iff_of_mem fun hr hq => ?_)
  obtain ⟨-, -, hr0, -⟩ := hok _ hr
  obtain ⟨-, -, hq0, -⟩ := hok _ hq
  exact disjointRegions_iff_no_common hr0 hq0

/-- A legal configuration's regions share no address (R73). -/
theorem pairwise_no_common {c : Config} (hc : configOk c = true) :
    (romRegion c :: c.ramRegions).Pairwise fun r q => ∀ a, ¬ (inRegion r a = true ∧ inRegion q a = true) := by
  obtain ⟨-, apart, -⟩ := configOk_iff_regions.1 hc
  exact apart

/-- Settles O2: the check is R73's conditions, construction makes it, and bounds that are multiples of 4 split no aligned
access. -/
theorem configurationConstraints : Obligations.ConfigurationConstraints := fun _ =>
  ⟨configOk_iff_regions, construct_of_not_configOk, fun hc r hr _ _ ha _ hk =>
    inRegion_of_aligned ((configOk_iff.1 hc).1 r hr) ha hk⟩

/-- An address of a RAM region is not in ROM, so it routes to RAM (R74). -/
theorem deviceAt_ram_iff {c : Config} (hc : configOk c = true) {a : Word} :
    deviceAt c a = .ram ↔ ∃ r ∈ c.ramRegions, inRegion r a = true := by
  have rom_apart : ∀ r ∈ c.ramRegions, inRegion r a = true → inRegion (romRegion c) a = false := fun r hr ha =>
    Bool.eq_false_iff.2 fun h => List.rel_of_pairwise_cons (pairwise_no_common hc) hr a ⟨h, ha⟩
  unfold deviceAt
  by_cases hrom : inRegion (romRegion c) a = true
  · rw [if_pos hrom]
    exact ⟨nofun, fun ⟨r, hr, ha⟩ => by simp [rom_apart r hr ha] at hrom⟩
  · rw [if_neg hrom, ← List.any_eq_true]
    split <;> simp [*]

/-- An address outside every region is unmapped (R74). -/
theorem deviceAt_unmapped_iff {c : Config} {a : Word} :
    deviceAt c a = .unmapped ↔ ∀ r ∈ romRegion c :: c.ramRegions, inRegion r a = false := by
  unfold deviceAt
  by_cases hrom : inRegion (romRegion c) a = true
  · simp [hrom]
  · rw [if_neg hrom]
    split <;> simp_all

/-- No address lies in two different regions (R73, R74). -/
theorem region_unique {c : Config} (hc : configOk c = true) {a : Word} {r q : Region}
    (hr : r ∈ romRegion c :: c.ramRegions) (hq : q ∈ romRegion c :: c.ramRegions)
    (har : inRegion r a = true) (haq : inRegion q a = true) : r = q := by
  have symm : Std.Symm fun r q : Region => ∀ b, ¬ (inRegion r b = true ∧ inRegion q b = true) :=
    ⟨fun _ _ h b hb => h b hb.symm⟩
  by_contra hne
  exact (pairwise_no_common hc).forall hr hq hne a ⟨har, haq⟩

/-- Settles O3 with the routes of `deviceAt` and the uniqueness of an address's region. -/
theorem addressDecoding : Obligations.AddressDecoding := by
  intro c hc a
  refine ⟨deviceAt_rom_iff.trans inRegion_iff, ?_, deviceAt_unmapped_iff, fun r hr q hq => region_unique hc hr hq⟩
  simp only [deviceAt_ram_iff hc, inRegion_iff]

/-! ## The errors of the bus -/

theorem not_aligned_iff {a : Word} {n : Width} : aligned a n = false ↔ a.toNat % n.bytes ≠ 0 := by
  rw [Bool.eq_false_iff, Ne, aligned_iff]

/-- The errors of a bus read, each exactly when R76 gives it. -/
theorem busRead_error_iff {c : Config} {m : Memory} {a : Word} {n : Width} {k : BusError} :
    busRead c m a n = .error k ↔
      (k = .misalignedAccess ∧ aligned a n = false) ∨
      (k = .unmappedAddress ∧ aligned a n = true ∧ deviceAt c a = .unmapped) := by
  refine ⟨busRead_error_cases, ?_⟩
  rintro (⟨rfl, ha⟩ | ⟨rfl, ha, hd⟩)
  · simp [busRead, ha]
  · simp [busRead, ha, hd]

/-- The errors of a bus write, each exactly when R76 gives it. -/
theorem busWrite_error_iff {c : Config} {a : Word} {n : Width} {v : Word} {k : BusError} :
    busWrite c a n v = .error k ↔
      (k = .misalignedAccess ∧ aligned a n = false) ∨
      (k = .unmappedAddress ∧ aligned a n = true ∧ deviceAt c a = .unmapped) ∨
      (k = .readOnlyViolation ∧ aligned a n = true ∧ deviceAt c a = .rom) := by
  refine ⟨busWrite_error_cases, ?_⟩
  rintro (⟨rfl, ha⟩ | ⟨rfl, ha, hd⟩ | ⟨rfl, ha, hd⟩)
  · simp [busWrite, ha]
  · simp [busWrite, ha, hd]
  · simp [busWrite, ha, hd]

/-- Settles O4: each clause is the case of its error in `busRead_error_iff` or `busWrite_error_iff`. -/
theorem busErrorPriority : Obligations.BusErrorPriority := by
  intro c m a n v
  simp [busRead_error_iff, busWrite_error_iff, aligned_iff, not_aligned_iff]

/-! ## The bytes of the bus -/

/-- The bytes a read returns: those of the access, with zero above (R79). -/
theorem extractByte_readLE (m : Memory) (a : Nat) (n : Width) (k : Nat) :
    (Memory.readLE m a n).extractLsb' (8 * k) 8 = if k < n.bytes then Memory.readByte m (a + k) else 0#8 := by
  apply BitVec.eq_of_getLsbD_eq
  intro i hi
  have hdiv : (8 * k + i) / 8 = k := by omega
  have hmod : (8 * k + i) % 8 = i := by omega
  have hlt : 8 * k + i < 8 * n.bytes ↔ k < n.bytes := by omega
  simp only [BitVec.getLsbD_extractLsb', hi, decide_true, Bool.true_and, getLsbD_readLE, hdiv, hmod, hlt]
  split <;> simp [*]

/-- A store's bytes, and every other byte as it was (R79). -/
theorem readByte_writeBytes_lowBytes {m : Memory} (hm : Memory.wf m) (a : Nat) (n : Width) (v : Word) (b : Nat) :
    Memory.readByte (Memory.writeBytes m a (lowBytes v n)) b =
      if a ≤ b ∧ b < a + n.bytes then v.extractLsb' (8 * (b - a)) 8 else Memory.readByte m b := by
  rw [readByte_writeBytes hm, length_lowBytes]
  split
  · next hb => exact getD_lowBytes v n (by omega)
  · rfl

/-- Settles O5 with what `readLE` returns and what writing a store's bytes leaves. -/
theorem busMovesExactlyItsBytes : Obligations.BusMovesExactlyItsBytes := by
  intro c m a n v hm
  constructor
  · intro r hr k _
    obtain ⟨-, -, rfl⟩ := busRead_ok_iff.1 hr
    exact extractByte_readLE m a.toNat n k
  · intro w hw
    obtain ⟨-, -, rfl⟩ := busWrite_ok_iff.1 hw
    exact readByte_writeBytes_lowBytes hm a.toNat n v

/-- After an aligned store to a mapped address, an aligned read of a part of it returns that part of the value (R81). -/
theorem busRead_part_of_store {c : Config} (hc : configOk c = true) {m : Memory} (hm : Memory.wf m) {a : Word} {n p : Width}
    (ha : aligned a n = true) (hd : deviceAt c a ≠ .unmapped) (v : Word) {k : Nat} (hk : k + p.bytes ≤ n.bytes)
    (hp : k % p.bytes = 0) (hpn : n.bytes % p.bytes = 0) :
    busRead c (Memory.writeBytes m a.toNat (lowBytes v n)) (a + BitVec.ofNat 32 k) p =
      .ok ((v.extractLsb' (8 * k) (8 * p.bytes)).setWidth 32) := by
  have hpos : 0 < p.bytes := by cases p <;> decide
  have hlt : k < n.bytes := by omega
  have hadd := toNat_add_of_aligned ha hlt
  have hpa : a.toNat % p.bytes = 0 :=
    Nat.mod_eq_zero_of_dvd ((Nat.dvd_of_mod_eq_zero hpn).trans (Nat.dvd_of_mod_eq_zero (aligned_iff.1 ha)))
  refine busRead_ok_iff.2 ⟨aligned_iff.2 ?_, by rwa [deviceAt_of_aligned hc ha hlt], ?_⟩
  · rw [hadd, Nat.add_mod, hpa, hp, Nat.add_zero, Nat.zero_mod]
  · rw [hadd, readLE_writeBytes hm _ _ _ _ hk]

/-- Settles O6: the whole value, and each byte and half-word of a word, is an aligned part of the store. -/
theorem storeThenLoadReturnsTheValue : Obligations.StoreThenLoadReturnsTheValue := by
  intro c m a n v w hc hm hw
  obtain ⟨ha, hram, rfl⟩ := busWrite_ok_iff.1 hw
  have hd : deviceAt c a ≠ .unmapped := by simp [hram]
  constructor
  · simpa using busRead_part_of_store hc hm ha hd v (k := 0) (p := n) (by omega) (Nat.zero_mod _) (Nat.mod_self _)
  · rintro rfl
    refine ⟨fun k hk => ?_, fun j hj => ?_⟩
    · exact busRead_part_of_store hc hm ha hd v (p := .byte) (Nat.succ_le_of_lt hk) (Nat.mod_one k) rfl
    · have h16 : 16 * j = 8 * (2 * j) := by omega
      rw [h16]
      exact busRead_part_of_store hc hm ha hd v (p := .half) (by simp only [Width.bytes]; omega) (Nat.mul_mod_right 2 j) rfl

/-! ## ROM -/

/-- MemoryAccess stages no byte in ROM: all bytes of its aligned store route to RAM, as the first one does (R73, R78). -/
theorem readByte_memoryStage_rom {c : Config} (hc : configOk c = true) {m : Memory} (hm : Memory.wf m) (e : ELatch) {a : Word}
    (hrom : deviceAt c a = .rom) :
    Memory.readByte (applyWrite m (memoryStage c m e).write) a.toNat = Memory.readByte m a.toNat := by
  cases h : (memoryStage c m e).write with
  | none => rfl
  | some w =>
    obtain ⟨b, n, v, hb, hram, rfl⟩ := memoryStage_write_ram h
    refine (readByte_writeBytes_lowBytes hm b.toNat n v a.toNat).trans (if_neg fun ⟨hle, hlt⟩ => ?_)
    have hk : a.toNat - b.toNat < n.bytes := by omega
    have hab : b + BitVec.ofNat 32 (a.toNat - b.toNat) = a :=
      BitVec.eq_of_toNat_eq (by rw [toNat_add_of_aligned hb hk]; omega)
    have hdev := deviceAt_of_aligned hc hb hk
    rw [hab, hrom, hram] at hdev
    cases hdev

/-- From `s` to `t` the configuration and every byte of ROM are kept. -/
def RomKept (s t : State) : Prop :=
  t.cfg = s.cfg ∧
  ∀ a : Word, deviceAt s.cfg a = .rom → Memory.readByte t.mem a.toNat = Memory.readByte s.mem a.toNat

theorem romKept_commit {s : State} (h : s.Inv) (f' : FLatch) (d' : DLatch) : RomKept s (commit f' d' s.tick) :=
  ⟨commit_cfg _ _ _, fun a hrom => by simpa using readByte_memoryStage_rom h.config h.memory.canonical s.e hrom⟩

theorem romKept_advance {s : State} (h : s.Inv) (d' : DLatch) : RomKept s (advance d' s) := by
  rcases advance_cases d' s with ⟨w, -, e⟩ | ⟨k, -, e⟩ <;> rw [e]
  · exact romKept_commit h _ d'
  · exact ⟨rfl, fun _ _ => rfl⟩

/-- Settles O44: only a cycle that commits writes memory, and its store is no store to ROM. -/
theorem romIsNeverWritten : Obligations.RomIsNeverWritten := by
  intro s t h ht
  rcases step_cases s with ⟨-, e⟩ | ⟨-, -, e⟩ | ⟨-, -, e⟩ | ⟨-, -, d', e, -⟩ <;>
    obtain rfl := Host.Outcome.next.inj (e.symm.trans ht)
  · exact ⟨rfl, fun _ _ => rfl⟩
  · exact ⟨rfl, fun _ _ => rfl⟩
  · exact romKept_commit h.dropFreeze _ _
  · exact romKept_advance h.dropFreeze d'

end Sys2Proof.Machine
end

section
/-! Proofs of the statements about the encoding: decoder and encoder are inverse to each other, the decoder follows the opcode
table, and a placed word runs in the next step. -/

namespace Sys2Proof

/-! ## The decoder, class by class (R125) -/

theorem decode_aluReg {w : Word} (h : opcodeOf w = opAluReg) :
    decode w = .ofRow (aluRegRow (funct7Of w) (funct3Of w) (rdOf w) (rs1Of w) (rs2Of w)) := by
  rw [decode, h]
  rfl

theorem decode_aluImm {w : Word} (h : opcodeOf w = opAluImm) :
    decode w = .ofRow (aluImmRow (funct7Of w) (funct3Of w) (rdOf w) (rs1Of w) (immIField w) (shamtOf w)) := by
  rw [decode, h]
  rfl

theorem decode_load {w : Word} (h : opcodeOf w = opLoad) :
    decode w = .ofRow (loadRow (funct3Of w) (rdOf w) (rs1Of w) (immIField w)) := by
  rw [decode, h]
  rfl

theorem decode_store {w : Word} (h : opcodeOf w = opStore) :
    decode w = .ofRow (storeRow (funct3Of w) (rs2Of w) (rs1Of w) (immSField w)) := by
  rw [decode, h]
  rfl

theorem decode_lui {w : Word} (h : opcodeOf w = opLui) : decode w = .instr (.lui (rdOf w) (immUField w)) := by
  rw [decode, h]
  rfl

theorem decode_jal {w : Word} (h : opcodeOf w = opJal) : decode w = .instr (.jal (rdOf w) (immJField w)) := by
  rw [decode, h]
  rfl

theorem decode_jalr {w : Word} (h : opcodeOf w = opJalr) :
    decode w = .ofRow (jalrRow (funct3Of w) (rdOf w) (rs1Of w) (immIField w)) := by
  rw [decode, h]
  rfl

theorem decode_branch {w : Word} (h : opcodeOf w = opBranch) :
    decode w = .ofRow (branchRow (funct3Of w) (rs1Of w) (rs2Of w) (immBField w)) := by
  rw [decode, h]
  rfl

/-- The opcode of a word that decodes is one of R125's eight. -/
theorem opcode_of_decode {w : Word} {i : Instr} (h : decode w = .instr i) :
    opcodeOf w = opAluReg ∨ opcodeOf w = opAluImm ∨ opcodeOf w = opLoad ∨ opcodeOf w = opStore ∨ opcodeOf w = opLui ∨
      opcodeOf w = opJal ∨ opcodeOf w = opJalr ∨ opcodeOf w = opBranch := by
  by_contra hne
  simp only [not_or] at hne
  obtain ⟨h1, h2, h3, h4, h5, h6, h7, h8⟩ := hne
  simp [decode, h1, h2, h3, h4, h5, h6, h7, h8] at h

theorem ofRow_eq_instr {row : Option Instr} {i : Instr} : Decoded.ofRow row = .instr i ↔ row = some i := by
  cases row <;> simp [Decoded.ofRow]

/-! ## Decoding an encoded instruction -/

/-- Settles O50, class by class: the fields of an encoded word are its operands (for the even offsets of branches and of JAL as
well) and select the instruction's own row. -/
theorem decodeOfEncode : Obligations.DecodeOfEncode := by
  intro i hi
  cases i with
  | add | sub | sll | slt | sltu | xor | srl | sra | or | and =>
    simp [encode, decode_aluReg, aluRegRow, Decoded.ofRow]
  | addi | slti | sltiu | xori | ori | andi | slli | srli | srai =>
    simp [encode, decode_aluImm, aluImmRow, Decoded.ofRow]
  | lb | lh | lw | lbu | lhu => simp [encode, decode_load, loadRow, Decoded.ofRow]
  | sb | sh | sw => simp [encode, decode_store, storeRow, Decoded.ofRow]
  | lui => simp [encode, decode_lui]
  | jal _ offset =>
    have even : offset.getLsbD 0 = false := by simpa [Instr.wf] using hi
    simp [encode, decode_jal, immJField_encJ _ _ _ even]
  | jalr => simp [encode, decode_jalr, jalrRow, Decoded.ofRow]
  | beq _ _ offset | bne _ _ offset | blt _ _ offset | bge _ _ offset | bltu _ _ offset | bgeu _ _ offset =>
    have even : offset.getLsbD 0 = false := by simpa [Instr.wf] using hi
    simp [encode, decode_branch, branchRow, immBField_encB _ _ _ _ _ even, Decoded.ofRow]

/-! ## Encoding a decoded word -/

section Rows

variable {f7 : BitVec 7} {f3 : BitVec 3} {rd rs1 rs2 shamt : RegIdx} {imm : BitVec 12} {i : Instr}

theorem encode_aluRegRow (h : aluRegRow f7 f3 rd rs1 rs2 = some i) :
    i.wf = true ∧ encode i = encR f7 rs2 rs1 f3 rd opAluReg := by
  unfold aluRegRow at h
  split_ifs at h <;> cases h <;> subst f7
  iterate 7
    · subst f3
      exact ⟨rfl, rfl⟩
  · obtain rfl : f3 = 0b111#3 := by bv_omega
    exact ⟨rfl, rfl⟩
  all_goals
    subst f3
    exact ⟨rfl, rfl⟩

/-- An ALU_I word has the I format, or the R format with `shamt` in place of rs2 (R113). -/
theorem encode_aluImmRow (h : aluImmRow f7 f3 rd rs1 imm shamt = some i) :
    i.wf = true ∧ (encode i = encI imm rs1 f3 rd opAluImm ∨ encode i = encR f7 shamt rs1 f3 rd opAluImm) := by
  unfold aluImmRow at h
  split_ifs at h <;> cases h
  iterate 6
    · subst f3
      exact ⟨rfl, .inl rfl⟩
  · subst f3 f7
    exact ⟨rfl, .inr rfl⟩
  all_goals
    obtain rfl : f3 = 0b101#3 := by bv_omega
    subst f7
    exact ⟨rfl, .inr rfl⟩

theorem encode_loadRow (h : loadRow f3 rd rs1 imm = some i) : i.wf = true ∧ encode i = encI imm rs1 f3 rd opLoad := by
  unfold loadRow at h
  split_ifs at h <;> cases h <;> subst f3 <;> exact ⟨rfl, rfl⟩

theorem encode_storeRow (h : storeRow f3 rs2 rs1 imm = some i) :
    i.wf = true ∧ encode i = encS imm rs2 rs1 f3 opStore := by
  unfold storeRow at h
  split_ifs at h <;> cases h <;> subst f3 <;> exact ⟨rfl, rfl⟩

theorem encode_jalrRow (h : jalrRow f3 rd rs1 imm = some i) : i.wf = true ∧ encode i = encI imm rs1 f3 rd opJalr := by
  unfold jalrRow at h
  split_ifs at h
  cases h
  subst f3
  exact ⟨rfl, rfl⟩

theorem encode_branchRow {offset : BitVec 13} (even : offset.getLsbD 0 = false)
    (h : branchRow f3 rs1 rs2 offset = some i) : i.wf = true ∧ encode i = encB offset rs2 rs1 f3 opBranch := by
  unfold branchRow at h
  split_ifs at h <;> cases h <;> subst f3 <;> exact ⟨by simpa [Instr.wf] using even, rfl⟩

end Rows

/-- Settles O51, class by class: the instruction of a row has the word that the fields make up, and those are the fields of the
word decoded. -/
theorem encodeOfDecode : Obligations.EncodeOfDecode := by
  intro w i h
  rcases opcode_of_decode h with hop | hop | hop | hop | hop | hop | hop | hop
  · rw [decode_aluReg hop, ofRow_eq_instr] at h
    exact (encode_aluRegRow h).imp_right fun e => by rw [e, ← hop, encR_fields]
  · rw [decode_aluImm hop, ofRow_eq_instr] at h
    refine (encode_aluImmRow h).imp_right fun e => ?_
    rw [← hop] at e
    exact e.elim (·.trans (encI_fields w)) (·.trans (encR_fields w))
  · rw [decode_load hop, ofRow_eq_instr] at h
    exact (encode_loadRow h).imp_right fun e => by rw [e, ← hop, encI_fields]
  · rw [decode_store hop, ofRow_eq_instr] at h
    exact (encode_storeRow h).imp_right fun e => by rw [e, ← hop, encS_fields]
  · obtain rfl := Decoded.instr.inj ((decode_lui hop).symm.trans h)
    exact ⟨rfl, by rw [encode, ← hop, encU_fields]⟩
  · obtain rfl := Decoded.instr.inj ((decode_jal hop).symm.trans h)
    exact ⟨by simpa [Instr.wf] using immJField_even w, by rw [encode, ← hop, encJ_fields]⟩
  · rw [decode_jalr hop, ofRow_eq_instr] at h
    exact (encode_jalrRow h).imp_right fun e => by rw [e, ← hop, encI_fields]
  · rw [decode_branch hop, ofRow_eq_instr] at h
    exact (encode_branchRow (immBField_even w) h).imp_right fun e => by rw [e, ← hop, encB_fields]

/-! ## The opcode table (R128) -/

/-- The mnemonic of the instruction decoded, if there is one. -/
def Decoded.mnemonic : Decoded → Option String
  | .instr i => some i.mnemonic
  | .reject _ => none

theorem mnemonic_eq_some {d : Decoded} {name : String} :
    d.mnemonic = some name ↔ ∃ i, d = .instr i ∧ i.mnemonic = name := by
  cases d <;> simp [Decoded.mnemonic]

/-- The opcode's rows constrain funct3: all classes' but LUI and JAL (R127). -/
abbrev rowsReadFunct3 (op : BitVec 7) : Prop := op ≠ opLui ∧ op ≠ opJal

/-- The rows of the opcode and funct3 constrain funct7: those of ALU_R and the shifts of ALU_I (R127). -/
abbrev rowsReadFunct7 (op : BitVec 7) (f3 : BitVec 3) : Prop :=
  op = opAluReg ∨ (op = opAluImm ∧ (f3 = 0b001#3 ∨ f3 = 0b101#3))

/-- An ALU_I row that is no shift takes funct7's bits as the immediate's. -/
theorem aluImmRow_funct7_congr {f7 f7' : BitVec 7} {f3 : BitVec 3} (h : f3 = 0b001#3 ∨ f3 = 0b101#3 → f7 = f7')
    (rd rs1 : RegIdx) (imm : BitVec 12) (shamt : BitVec 5) :
    aluImmRow f7 f3 rd rs1 imm shamt = aluImmRow f7' f3 rd rs1 imm shamt := by
  by_cases shift : f3 = 0b001#3 ∨ f3 = 0b101#3
  · rw [h shift]
  · obtain rfl | rfl | rfl | rfl | rfl | rfl :
      f3 = 0b000#3 ∨ f3 = 0b010#3 ∨ f3 = 0b011#3 ∨ f3 = 0b100#3 ∨ f3 = 0b110#3 ∨ f3 = 0b111#3 := by bv_omega
    all_goals rfl

/-- The instruction a word decodes to is named by the fields its rows constrain. -/
theorem mnemonic_decode_congr {v w : Word} (hop : opcodeOf w = opcodeOf v)
    (hf3 : rowsReadFunct3 (opcodeOf v) → funct3Of w = funct3Of v)
    (hf7 : rowsReadFunct7 (opcodeOf v) (funct3Of v) → funct7Of w = funct7Of v) :
    (decode w).mnemonic = (decode v).mnemonic := by
  unfold decode
  rw [hop]
  split_ifs with reg immediate load store lui jal jalr branch
  · rw [hf3 (by rw [reg]; decide), hf7 (.inl reg)]
    simp only [aluRegRow, apply_ite Decoded.ofRow, apply_ite Decoded.mnemonic]
    rfl
  · rw [hf3 (by rw [immediate]; decide), aluImmRow_funct7_congr fun shift => hf7 (.inr ⟨immediate, shift⟩)]
    simp only [aluImmRow, apply_ite Decoded.ofRow, apply_ite Decoded.mnemonic]
    rfl
  · rw [hf3 (by rw [load]; decide)]
    simp only [loadRow, apply_ite Decoded.ofRow, apply_ite Decoded.mnemonic]
    rfl
  · rw [hf3 (by rw [store]; decide)]
    simp only [storeRow, apply_ite Decoded.ofRow, apply_ite Decoded.mnemonic]
    rfl
  · rfl
  · rfl
  · rw [hf3 (by rw [jalr]; decide)]
    simp only [jalrRow, apply_ite Decoded.ofRow, apply_ite Decoded.mnemonic]
    rfl
  · rw [hf3 (by rw [branch]; decide)]
    simp only [branchRow, apply_ite Decoded.ofRow, apply_ite Decoded.mnemonic]
    rfl
  · rfl

/-- A field that lies under the mask is the pattern's. -/
theorem extractLsb'_of_masked {w mask pattern : Word} {start len : Nat} (h : w &&& mask = pattern)
    (hm : mask.extractLsb' start len = BitVec.allOnes len) : w.extractLsb' start len = pattern.extractLsb' start len := by
  rw [← h, BitVec.extractLsb'_and, hm, BitVec.and_allOnes]

/-- Every row's mask covers the fields that the rows of its opcode constrain. -/
theorem opcodeTable_mask : ∀ r ∈ opcodeTable, opcodeOf r.mask = BitVec.allOnes 7 ∧
    (rowsReadFunct3 (opcodeOf r.pattern) → funct3Of r.mask = BitVec.allOnes 3) ∧
    (rowsReadFunct7 (opcodeOf r.pattern) (funct3Of r.pattern) → funct7Of r.mask = BitVec.allOnes 7) := by
  decide

theorem mnemonic_decode_pattern : ∀ r ∈ opcodeTable, (decode r.pattern).mnemonic = some r.mnemonic := by decide

/-- A word that a row selects decodes to an instruction of the row's mnemonic. -/
theorem mnemonic_decode_of_row {r : TableRow} (hr : r ∈ opcodeTable) {w : Word} (h : w &&& r.mask = r.pattern) :
    (decode w).mnemonic = some r.mnemonic := by
  obtain ⟨hop, hf3, hf7⟩ := opcodeTable_mask r hr
  rw [← mnemonic_decode_pattern r hr]
  exact mnemonic_decode_congr (extractLsb'_of_masked h hop) (fun c => extractLsb'_of_masked h (hf3 c))
    (fun c => extractLsb'_of_masked h (hf7 c))

theorem opcodeTable_mnemonic_nodup : (opcodeTable.map TableRow.mnemonic).Nodup := by decide

/-- The word of every instruction belongs to the row of its mnemonic. -/
theorem encodingMatches : ∀ i : Instr, Laws.EncodingMatches.Statement i
  | .add .. => Laws.EncodingMatches.add ..
  | .sub .. => Laws.EncodingMatches.sub ..
  | .sll .. => Laws.EncodingMatches.sll ..
  | .slt .. => Laws.EncodingMatches.slt ..
  | .sltu .. => Laws.EncodingMatches.sltu ..
  | .xor .. => Laws.EncodingMatches.xor ..
  | .srl .. => Laws.EncodingMatches.srl ..
  | .sra .. => Laws.EncodingMatches.sra ..
  | .or .. => Laws.EncodingMatches.or ..
  | .and .. => Laws.EncodingMatches.and ..
  | .addi .. => Laws.EncodingMatches.addi ..
  | .slti .. => Laws.EncodingMatches.slti ..
  | .sltiu .. => Laws.EncodingMatches.sltiu ..
  | .xori .. => Laws.EncodingMatches.xori ..
  | .ori .. => Laws.EncodingMatches.ori ..
  | .andi .. => Laws.EncodingMatches.andi ..
  | .slli .. => Laws.EncodingMatches.slli ..
  | .srli .. => Laws.EncodingMatches.srli ..
  | .srai .. => Laws.EncodingMatches.srai ..
  | .lb .. => Laws.EncodingMatches.lb ..
  | .lh .. => Laws.EncodingMatches.lh ..
  | .lw .. => Laws.EncodingMatches.lw ..
  | .lbu .. => Laws.EncodingMatches.lbu ..
  | .lhu .. => Laws.EncodingMatches.lhu ..
  | .sb .. => Laws.EncodingMatches.sb ..
  | .sh .. => Laws.EncodingMatches.sh ..
  | .sw .. => Laws.EncodingMatches.sw ..
  | .lui .. => Laws.EncodingMatches.lui ..
  | .jal .. => Laws.EncodingMatches.jal ..
  | .jalr .. => Laws.EncodingMatches.jalr ..
  | .beq .. => Laws.EncodingMatches.beq ..
  | .bne .. => Laws.EncodingMatches.bne ..
  | .blt .. => Laws.EncodingMatches.blt ..
  | .bge .. => Laws.EncodingMatches.bge ..
  | .bltu .. => Laws.EncodingMatches.bltu ..
  | .bgeu .. => Laws.EncodingMatches.bgeu ..

/-- Settles O52: a word that decodes is its instruction's own word, which the row of its mnemonic selects; a row's mask covers what
the decoder reads, so a word that it selects has its mnemonic; and no two rows share a mnemonic. -/
theorem decoderFollowsTheOpcodeTable : Obligations.DecoderFollowsTheOpcodeTable := by
  intro w
  refine ⟨fun i h => ?_, fun r hr h => mnemonic_eq_some.1 (mnemonic_decode_of_row hr h), fun r hr q hq h h' => ?_⟩
  · rw [← (encodeOfDecode w i h).2]
    exact encodingMatches i
  · refine List.inj_on_of_nodup_map opcodeTable_mnemonic_nodup hr hq ?_
    exact Option.some.inj ((mnemonic_decode_of_row hr h).symm.trans (mnemonic_decode_of_row hq h'))

/-- Settles O54 by running the decoder on the nine words. -/
theorem exampleWordsAreRejected : Obligations.ExampleWordsAreRejected := by
  unfold Obligations.ExampleWordsAreRejected
  decide

/-! ## The bytes of a word (R80, R110) -/

theorem wordOfBytes_bytes (w : Word) :
    wordOfBytes (w.extractLsb' 0 8) (w.extractLsb' 8 8) (w.extractLsb' 16 8) (w.extractLsb' 24 8) = w := by
  apply BitVec.eq_of_getLsbD_eq
  intro i hi
  simp only [wordOfBytes, BitVec.getLsbD_cast, BitVec.getLsbD_append, BitVec.getLsbD_extractLsb']
  interval_cases i <;> simp

theorem decodeBytes_bytesOfWord (w : Word) : decodeBytes (bytesOfWord w) = decode w := by
  rw [bytesOfWord, decodeBytes, wordOfBytes_bytes]

theorem tableWord_toNat (w : Word) : tableWord 32 w.toNat = w := by
  rw [tableWord, Nat.mod_eq_of_lt w.isLt, BitVec.ofNat_toNat, BitVec.setWidth_eq]

end Sys2Proof

namespace Sys2Proof.Machine

/-! ## A placed word (log entry 5) -/

/-- A step that runs, and whose word is neither squashed nor stalled, is the meaning of the word's instruction. -/
theorem step_of_decoded {s : State} {i : Instr} (hr : s.runs = true) (hq : squashes s = false) (hs : stalls s = false)
    (hd : decode s.f.instruction = .instr i) : step s = exec i s.dropFreeze := by
  simp [step_of_runs hr, runCycle, hq, hs, hd]

/-- No register is still to be written after a placed word: the latches are empty. -/
theorem stalls_placeFetched (s : State) (w : Word) : stalls (placeFetched s w) = false := by
  have noPending : ∀ r, pendingWrite (placeFetched s w) r = false := fun r => by
    simp [pendingWrite, placeFetched, DLatch.bubble, ELatch.bubble, MLatch.bubble]
  unfold stalls hazard
  split <;> simp [noPending]

/-- Settles O49: the bits placed are the word, and in the state placed nothing halts, freezes, squashes or stalls it. -/
theorem fetchWordRunsInTheNextStep : Obligations.FetchWordRunsInTheNextStep := by
  intro s w i h
  rw [decodeTableWord, State.withFetchWord, tableWord_toNat, decodeBytes_bytesOfWord, h]
  exact ⟨rfl, step_of_decoded rfl rfl (stalls_placeFetched s w) h⟩

end Sys2Proof.Machine
end

section
/-! Proofs of the statements about the pipeline's cycle: what each kind of step leaves in the stages, and when Decode stalls. -/

namespace Sys2Proof.Machine

/-! ## Halted and frozen calls -/

/-- The first of `k + 1` steps, where it answers a state. -/
theorem runFor_succ {s t : State} (k : Nat) (h : step s = .next t) : runFor (k + 1) s = runFor k t := by
  have hc : core.step s = .next t := h
  simp only [runFor, Host.Core.run, hc]
  rfl

/-- Settles O13, by induction on the number of steps. -/
theorem haltedMachineStandsStill : Obligations.HaltedMachineStandsStill := by
  intro s k hh
  induction k with
  | zero => rfl
  | succ k ih => rw [runFor_succ k (step_of_halted hh), ih]

theorem not_halted_of_step {s t : State} (ht : step s = .next t) (hh : t.halted = false) : s.halted = false :=
  Bool.eq_false_iff.2 fun hs => by
    obtain rfl := Host.Outcome.next.inj ((step_of_halted hs).symm.trans ht)
    simp [hs] at hh

theorem step_of_frozen {s : State} (hh : s.halted = false) (hf : nextFreeze s = true) :
    step s = .next s.dropFreeze.tick := by
  rw [step_of_not_halted hh, hf]
  simp [cycleNext, hh]

/-- Settles O14: the call takes the head of the inputs and counts. -/
theorem frozenCycleOnlyCounts : Obligations.FrozenCycleOnlyCounts := by
  intro s rest hh hq
  rw [step_of_frozen hh (by simp [nextFreeze, hq]), State.dropFreeze, hq]
  rfl

/-! ## Running cycles -/

theorem step_of_stall {s : State} (hr : s.runs = true) (hs : stalls s = true) :
    step s = .next (stallCycle s.dropFreeze) := by
  simp [step_of_runs hr, runCycle_eq, runNext, hs]

theorem decodeOutput_dropFreeze (s : State) : decodeOutput s.dropFreeze = decodeOutput s := decodeOutput_inputs s _

theorem step_of_advance {s : State} (hr : s.runs = true) (hs : stalls s = false) :
    step s = .next (advance (decodeOutput s) s.dropFreeze) := by
  simp [step_of_runs hr, runCycle_eq, runNext, hs, decodeOutput_dropFreeze]

theorem decodeOutput_of_squash {s : State} (hq : squashes s = true) : decodeOutput s = DLatch.bubble := if_pos hq

theorem stalls_of_squash {s : State} (hq : squashes s = true) : stalls s = false := by simp [stalls, hq]

theorem squashes_of_stall {s : State} (hs : stalls s = true) : squashes s = false :=
  Bool.eq_false_iff.2 fun hq => by simp [stalls_of_squash hq] at hs

/-- The F latch that a fetch of the word `w` gives (R159). -/
def fetched (s : State) (w : Word) : FLatch := { pc := fetchAddr s, pcPlus4 := fetchAddr s + 4#32, instruction := w }

/-- The F and D latches that a cycle which commits puts: held and a bubble where Decode stalls (R161), else the word fetched and
Decode's output. -/
inductive Committed (s : State) : FLatch → DLatch → Prop where
  | stalled (hs : stalls s = true) : Committed s s.f DLatch.bubble
  | advanced (hs : stalls s = false) {w : Word} (hw : s.fetches w) : Committed s (fetched s w) (decodeOutput s)

theorem advance_of_fetches_step {s : State} {w : Word} (hw : s.fetches w) (d' : DLatch) :
    advance d' s.dropFreeze = commit (fetched s w) d' s.dropFreeze.tick := advance_of_fetches (s := s.dropFreeze) hw d'

theorem advance_of_error_step {s : State} {k : BusError} (hk : busRead s.cfg s.mem (fetchAddr s) .word = .error k) (d' : DLatch) :
    advance d' s.dropFreeze = s.dropFreeze.tick.raiseFetchFault k (fetchAddr s) :=
  advance_of_error (s := s.dropFreeze) hk d'

/-- What a running cycle can do: commit, the machine running on, or end in a fetch fault and halt (R179). -/
theorem step_runs_cases {s t : State} (hr : s.runs = true) (ht : step s = .next t) :
    (t.halted = false ∧ ∃ f' d', Committed s f' d' ∧ t = commit f' d' s.dropFreeze.tick) ∨
    (t.halted = true ∧ stalls s = false ∧ ∃ k, busRead s.cfg s.mem (fetchAddr s) .word = .error k ∧
      t = s.dropFreeze.tick.raiseFetchFault k (fetchAddr s)) := by
  obtain ⟨hh, -⟩ := runs_iff.1 hr
  cases hs : stalls s with
  | true =>
    obtain rfl := Host.Outcome.next.inj ((step_of_stall hr hs).symm.trans ht)
    exact .inl ⟨by simpa [stallCycle] using hh, _, _, .stalled hs, rfl⟩
  | false =>
    obtain rfl := Host.Outcome.next.inj ((step_of_advance hr hs).symm.trans ht)
    cases hw : busRead s.cfg s.mem (fetchAddr s) .word with
    | error k =>
      rw [advance_of_error_step hw]
      exact .inr ⟨rfl, rfl, k, rfl, rfl⟩
    | ok w =>
      rw [advance_of_fetches_step hw]
      exact .inl ⟨by simpa using hh, _, _, .advanced hs hw, rfl⟩

/-- A running cycle that leaves the machine running commits. -/
theorem step_commits {s t : State} (hr : s.runs = true) (ht : step s = .next t) (hh : t.halted = false) :
    ∃ f' d', Committed s f' d' ∧ t = commit f' d' s.dropFreeze.tick := by
  rcases step_runs_cases hr ht with ⟨-, h⟩ | ⟨hh', -⟩
  · exact h
  · simp [hh] at hh'

/-! ## WriteBack -/

/-- A step that is no running cycle, or one that halts, keeps the registers. -/
theorem step_x_of_not_committed {s t : State} (ht : step s = .next t) (h : ¬ (s.runs = true ∧ t.halted = false)) :
    t.x = s.x := by
  rcases step_cases s with ⟨-, e⟩ | ⟨-, -, e⟩ | ⟨hr, -, -⟩ | ⟨hr, -⟩
  · rw [← Host.Outcome.next.inj (e.symm.trans ht)]
  · rw [← Host.Outcome.next.inj (e.symm.trans ht)]; rfl
  all_goals
    rcases step_runs_cases hr ht with ⟨hh, -⟩ | ⟨-, -, k, -, rfl⟩
    · exact absurd ⟨hr, hh⟩ h
    · rfl

/-- Settles O8: a cycle that commits writes back the M latch (R178), and any other call keeps the registers. -/
theorem writeBackIsTheOnlyRegisterWrite : Obligations.WriteBackIsTheOnlyRegisterWrite := by
  intro s t ht r
  by_cases h : s.runs = true ∧ t.halted = false
  · obtain ⟨hr, hh⟩ := h
    obtain ⟨f', d', -, e⟩ := step_commits hr ht hh
    have hx : t.readReg r = readFile (writeBack s.x s.m) r := by simp [e, State.readReg]
    rw [hx, readFile_writeBack]
    simp only [hr, hh, true_and, State.readReg]
  · rw [State.readReg, step_x_of_not_committed ht h, if_neg fun ⟨hr, hh, _⟩ => h ⟨hr, hh⟩, State.readReg]

/-! ## MemoryAccess -/

/-- The width that funct3[1:0] selects (R174). -/
theorem widthOf_eq {f3 : BitVec 3} {n : Width}
    (h : (f3.extractLsb' 0 2, n) ∈ [(0b00#2, Width.byte), (0b01#2, .half), (0b10#2, .word)]) : widthOf f3 = n := by
  simp only [List.mem_cons, Prod.mk.injEq, List.not_mem_nil, or_false] at h
  rcases h with ⟨h, rfl⟩ | ⟨h, rfl⟩ | ⟨h, rfl⟩ <;> simp [widthOf, h]

/-- The extension that funct3[2] selects (R176). -/
theorem extendLoaded_eq (f3 : BitVec 3) (n : Width) (v : Word) :
    extendLoaded f3 n v =
      if f3.getLsbD 2 = true then (v.setWidth (8 * n.bytes)).setWidth 32 else (v.setWidth (8 * n.bytes)).signExtend 32 := by
  cases n <;> simp [extendLoaded, Width.bytes]

theorem memoryStage_store_ok {c : Config} {mem : Memory} {e : ELatch} (hs : e.isStore = true) {w : StagedWrite}
    (h : busWrite c (effectiveAddr e) (widthOf e.funct3) e.rs2Value = .ok w) :
    memoryStage c mem e = { m := { wbValue := 0#32, rd := e.rd, wbValid := false }, write := some w, fault := none } := by
  simp [memoryStage, hs, storePath, h]

theorem memoryStage_store_error {c : Config} {mem : Memory} {e : ELatch} (hs : e.isStore = true) {k : BusError}
    (h : busWrite c (effectiveAddr e) (widthOf e.funct3) e.rs2Value = .error k) :
    memoryStage c mem e =
      { m := { wbValue := 0#32, rd := e.rd, wbValid := false }
        write := none
        fault := some { kind := k, access := .store, addr := effectiveAddr e, width := widthOf e.funct3 } } := by
  simp [memoryStage, hs, storePath, h]

theorem memoryStage_store_m {c : Config} {mem : Memory} {e : ELatch} (hs : e.isStore = true) :
    (memoryStage c mem e).m = { wbValue := 0#32, rd := e.rd, wbValid := false } := by
  cases h : busWrite c (effectiveAddr e) (widthOf e.funct3) e.rs2Value with
  | ok w => rw [memoryStage_store_ok hs h]
  | error k => rw [memoryStage_store_error hs h]

theorem memoryStage_load_ok {c : Config} {mem : Memory} {e : ELatch} (hs : e.isStore = false) (hl : e.isLoad = true) {v : Word}
    (h : busRead c mem (effectiveAddr e) (widthOf e.funct3) = .ok v) :
    memoryStage c mem e =
      { m := { wbValue := extendLoaded e.funct3 (widthOf e.funct3) v, rd := e.rd, wbValid := e.wbEnable }
        write := none
        fault := none } := by
  simp [memoryStage, hs, hl, loadPath, h]

theorem memoryStage_load_error {c : Config} {mem : Memory} {e : ELatch} (hs : e.isStore = false) (hl : e.isLoad = true)
    {k : BusError} (h : busRead c mem (effectiveAddr e) (widthOf e.funct3) = .error k) :
    memoryStage c mem e =
      { m := { wbValue := 0#32, rd := e.rd, wbValid := false }
        write := none
        fault := some { kind := k, access := .load, addr := effectiveAddr e, width := widthOf e.funct3 } } := by
  simp [memoryStage, hs, hl, loadPath, h]

theorem memoryStage_load_write {c : Config} {mem : Memory} {e : ELatch} (hs : e.isStore = false) (hl : e.isLoad = true) :
    (memoryStage c mem e).write = none := by
  cases h : busRead c mem (effectiveAddr e) (widthOf e.funct3) with
  | ok v => rw [memoryStage_load_ok hs hl h]
  | error k => rw [memoryStage_load_error hs hl h]

theorem memoryStage_pass (c : Config) (mem : Memory) {e : ELatch} (hs : e.isStore = false) (hl : e.isLoad = false) :
    memoryStage c mem e =
      { m := { wbValue := e.result, rd := e.rd, wbValid := e.wbEnable }, write := none, fault := none } := by
  simp [memoryStage, hs, hl]

/-- What the commit makes of MemoryAccess's output (R179). -/
theorem commit_memoryOut (f' : FLatch) (d' : DLatch) {s : State} {o : MemoryOut} (h : memoryStage s.cfg s.mem s.e = o) :
    (commit f' d' s).m = o.m ∧ (commit f' d' s).mem = applyWrite s.mem o.write ∧
    (commit f' d' s).dataFaults = s.dataFaults ++ (o.fault.map (PendingFault.stamp s.cycleCount)).toList := by
  subst h
  exact ⟨commit_m .., commit_mem .., commit_dataFaults ..⟩

/-- Settles O9: the cycle commits what MemoryAccess makes of the E latch, a store, a load or neither. -/
theorem memoryAccessOfTheELatch : Obligations.MemoryAccessOfTheELatch := by
  intro s t hr ht hh
  obtain ⟨f', d', -, rfl⟩ := step_commits hr ht hh
  have commits {o : MemoryOut} := commit_memoryOut f' d' (s := s.dropFreeze.tick) (o := o)
  constructor
  · intro n hn
    obtain rfl := widthOf_eq hn
    refine ⟨fun hs => ⟨?_, fun w hw => ?_, fun k hk => ?_⟩, fun hs hl => ⟨?_, fun v hv => ?_, fun k hk => ?_⟩⟩
    · exact (commit_m ..).trans (memoryStage_store_m hs)
    · obtain ⟨-, hmem, hlog⟩ := commits (memoryStage_store_ok hs hw)
      exact ⟨hmem, by simpa using hlog⟩
    · obtain ⟨-, hmem, hlog⟩ := commits (memoryStage_store_error hs hk)
      exact ⟨hmem, hlog⟩
    · rw [commit_mem]
      exact congrArg (applyWrite s.mem) (memoryStage_load_write hs hl)
    · obtain ⟨hm, -, hlog⟩ := commits (memoryStage_load_ok hs hl hv)
      rw [hm]
      exact ⟨by simpa using hlog, rfl, rfl, extendLoaded_eq _ _ v⟩
    · obtain ⟨hm, -, hlog⟩ := commits (memoryStage_load_error hs hl hk)
      exact ⟨hm, hlog⟩
  · intro hs hl
    obtain ⟨hm, hmem, hlog⟩ := commits (memoryStage_pass s.cfg s.mem hs hl)
    exact ⟨hm, hmem, by simpa using hlog⟩

/-! ## Execute -/

/-- Settles O10: the E latch committed is Execute's output, whose result the D latch's flags select and the ALU computes by
funct3. -/
theorem executeOfTheDLatch : Obligations.ExecuteOfTheDLatch := by
  intro s t hr ht hh
  obtain ⟨f', d', -, rfl⟩ := step_commits hr ht hh
  have he : (commit f' d' s.dropFreeze.tick).e = executeStage s.cfg s.d := commit_e ..
  rw [he]
  simp only [executeStage]
  refine ⟨by simp only [and_self], fun halu => ?_, ?_, ?_, ?_⟩
  · have hres : executeResult s.cfg s.d = alu s.cfg s.d := if_pos halu
    rw [hres]
    refine ⟨?_, ?_, ?_, ?_, ?_, ?_, ?_, ?_, ?_, ?_⟩ <;> intro hf3 <;>
      simp +contextual [alu, hf3, boolWord, lessSigned, lessUnsigned, shiftRight]
  · intro halu hlui
    simp [executeResult, halu, hlui]
  · intro halu hlui hj hlink
    simp [executeResult, halu, hlui, hj, hlink]
  · intro halu hlui hj
    simp [executeResult, halu, hlui, hj]

/-! ## Fetch -/

/-- Settles O11: of the two kinds of cycle that commit, the stalled one holds the F latch and the other fetches. -/
theorem fetchOfTheNextWord : Obligations.FetchOfTheNextWord := by
  intro s t hr ht hh
  obtain ⟨f', d', hc, rfl⟩ := step_commits hr ht hh
  rw [commit_f]
  cases hc with
  | stalled hs => exact ⟨fun _ => rfl, fun hs' => by simp [hs] at hs'⟩
  | advanced hs hw => exact ⟨fun hs' => by simp [hs] at hs', fun _ => ⟨_, hw, rfl⟩⟩

/-- Settles O12: a failing fetch ends the cycle before anything commits, and a running cycle halts in no other case. -/
theorem fetchFaultAbandonsTheCycle : Obligations.FetchFaultAbandonsTheCycle := by
  intro s hr
  constructor
  · intro k hs hk
    exact ⟨s.freezeIn.tail, by rw [step_of_advance hr hs, advance_of_error_step hk]; rfl⟩
  · intro t ht hh
    rcases step_runs_cases hr ht with ⟨hh', -⟩ | ⟨-, hs, k, hk, -⟩
    · simp [hh] at hh'
    · exact ⟨hs, k, hk⟩

/-! ## Which word Decode takes -/

/-- Settles O16 with `step_of_decoded`. -/
theorem stepRunsTheDecodedInstruction : Obligations.StepRunsTheDecodedInstruction :=
  fun _ _ hr hq hs hd => step_of_decoded hr hq hs hd

theorem step_of_squash {s : State} (hr : s.runs = true) (hq : squashes s = true) :
    step s = .next (advance DLatch.bubble s.dropFreeze) := by
  rw [step_of_advance hr (stalls_of_squash hq), decodeOutput_of_squash hq]

/-- Settles O17: a squashed word's cycle decodes a bubble and fetches at the target, and the commit puts a new F latch over the
word. -/
theorem squashedWordHasNoEffect : Obligations.SquashedWordHasNoEffect := by
  intro s hr hq
  have ht := step_of_squash hr hq
  refine ⟨stalls_of_squash hq, _, ht, fun w hh => ?_, fun hh => ?_⟩
  · rw [step_of_squash (s := { s with f := { s.f with instruction := w } }) hr hq]
    rcases step_runs_cases hr ht with ⟨-, f', d', hc, e⟩ | ⟨hh', -⟩
    · cases hc with
      | stalled hs => simp [stalls_of_squash hq] at hs
      | advanced _ hw =>
        rw [advance_of_fetches_step hw, advance_of_fetches_step (s := { s with f := { s.f with instruction := w } }) hw]
        rfl
    · simp [hh] at hh'
  · obtain ⟨f', d', hc, e⟩ := step_commits hr ht hh
    rw [e, commit_d, commit_f]
    cases hc with
    | stalled hs => simp [stalls_of_squash hq] at hs
    | advanced _ _ => exact ⟨decodeOutput_of_squash hq, if_pos hq⟩

/-- Where MemoryAccess makes no access, memory passes by a commit. -/
theorem commit_mem_irrelevant (f' : FLatch) (d' : DLatch) {s : State} (hl : s.e.isLoad = false) (hs : s.e.isStore = false)
    (m' : Memory) : commit f' d' { s with mem := m' } = { commit f' d' s with mem := m' } := by
  simp only [commit, memoryStage_pass _ _ hs hl]
  rfl

/-- Settles O18: a stalled cycle commits without a fetch, holding the F latch and putting a bubble. -/
theorem stalledCycleHoldsFetch : Obligations.StalledCycleHoldsFetch := by
  intro s hr hs
  obtain ⟨hh, -⟩ := runs_iff.1 hr
  refine ⟨_, step_of_stall hr hs, by simpa [stallCycle] using hh, commit_f .., commit_d .., commit_cycleCount .., ?_⟩
  intro hl hst m'
  rw [step_of_stall (s := { s with mem := m' }) hr hs]
  exact congrArg Host.Outcome.next (commit_mem_irrelevant _ _ (s := s.dropFreeze.tick) hl hst m')

/-! ## The hazard unit -/

theorem readsRs1_iff (c : Class) : readsRs1 c = true ↔ c ∈ [Class.aluReg, .aluImm, .load, .store, .jalr, .branch] := by
  cases c <;> decide

theorem readsRs2_iff (c : Class) : readsRs2 c = true ↔ c ∈ [Class.aluReg, .store, .branch] := by
  cases c <;> decide

theorem pendingWrite_iff {s : State} {r : RegIdx} :
    pendingWrite s r = true ↔ r ≠ 0#5 ∧
      ((s.d.wbEnable = true ∧ s.d.rd = r) ∨ (s.e.wbEnable = true ∧ s.e.rd = r) ∨ (s.m.wbValid = true ∧ s.m.rd = r)) := by
  simp [pendingWrite, or_assoc]

/-- A hazard is a pending write to a register that the word reads by its class (R156, R157). -/
theorem hazard_iff {w : Word} {s : State} :
    hazard w s = true ↔ ∃ i, decode w = .instr i ∧
      ((readsRs1 i.cls = true ∧ pendingWrite s (rs1Of w) = true) ∨ (readsRs2 i.cls = true ∧ pendingWrite s (rs2Of w) = true)) := by
  unfold hazard
  cases decode w <;> simp

/-- Settles O19: the stall signal, with `hazard_iff` and `pendingWrite_iff` written out. -/
theorem stallConditionIsAPendingSource : Obligations.StallConditionIsAPendingSource := by
  intro s
  have hsplit : stalls s = true ↔
      s.cfg.hazardPolicy = .interlock ∧ s.d.branchValid = false ∧ hazard s.f.instruction s = true := by
    simp [stalls, squashes, and_assoc]
  rw [hsplit, hazard_iff]
  simp only [pendingWrite_iff, readsRs1_iff, readsRs2_iff]
  refine and_congr_right fun _ => and_congr_right fun _ => exists_congr fun i => ?_
  constructor
  · rintro ⟨hd, ⟨hc, h0, hp⟩ | ⟨hc, h0, hp⟩⟩
    · exact ⟨_, hd, h0, .inl ⟨rfl, hc⟩, hp⟩
    · exact ⟨_, hd, h0, .inr ⟨rfl, hc⟩, hp⟩
  · rintro ⟨r, hd, h0, ⟨rfl, hc⟩ | ⟨rfl, hc⟩, hp⟩
    · exact ⟨hd, .inl ⟨hc, h0, hp⟩⟩
    · exact ⟨hd, .inr ⟨hc, h0, hp⟩⟩

/-- Settles O21: a bubble's flags and enables are all 0. -/
theorem bubblesAreInert : Obligations.BubblesAreInert := by
  refine ⟨executeStage_bubble, memoryStage_bubble, writeBack_bubble, fun s r hd he hm => ⟨?_, ?_⟩⟩
  · simp [pendingWrite, hd, he, hm, DLatch.bubble, ELatch.bubble, MLatch.bubble]
  · rw [squashes, hd]; rfl

/-! ## Draining by the machine's own cycles -/

theorem step_total (s : State) : ∃ t, step s = .next t := by
  rcases step_cases s with ⟨-, e⟩ | ⟨-, -, e⟩ | ⟨-, -, e⟩ | ⟨-, -, d', e, -⟩ <;> exact ⟨_, e⟩

/-- With no input of the host's left, a step that leaves the machine running is a cycle that commits, and no input comes. -/
theorem step_commits_of_no_inputs {s t : State} (hq : s.freezeIn = []) (ht : step s = .next t) (hh : t.halted = false) :
    t.freezeIn = [] ∧ ∃ f' d', t = commit f' d' s.tick := by
  have hdrop : s.dropFreeze = s := by
    have htail : s.freezeIn.tail = s.freezeIn := by rw [hq]; rfl
    rw [State.dropFreeze, htail]
  obtain ⟨f', d', -, e⟩ := step_commits (runs_iff.2 ⟨not_halted_of_step ht hh, by simp [nextFreeze, hq]⟩) ht hh
  rw [hdrop] at e
  exact ⟨by simp [e, hq], f', d', e⟩

section Commits

variable (s : State) (f₁ f₂ f₃ : FLatch) (d₁ d₂ d₃ : DLatch)

/-- After two cycles that commit, every store older than them is done. -/
theorem commit_twice_mem : (commit f₂ d₂ (commit f₁ d₁ s.tick).tick).mem = s.drain.mem := by
  simp [drain_mem]

/-- After two cycles that commit, every fault older than them is logged, under the cycle number that draining gives. -/
theorem commit_twice_dataFaults : (commit f₂ d₂ (commit f₁ d₁ s.tick).tick).dataFaults = s.drain.dataFaults := by
  simp [State.drain, stallCycle, commit_dataFaults]

/-- After three cycles that commit, every register write older than them is done. -/
theorem commit_thrice_x : (commit f₃ d₃ (commit f₂ d₂ (commit f₁ d₁ s.tick).tick).tick).x = s.drain.x := by
  simp [drain_x]

end Commits

/-- Settles O38: unless a fetch fault halts the machine, its next three steps commit, and what they decode has not reached memory
after two of them nor the registers after three. -/
theorem runReachesTheDrainedState : Obligations.RunReachesTheDrainedState := by
  intro t _ hq
  obtain ⟨t₁, h₁⟩ := step_total t
  obtain ⟨v, h₂⟩ := step_total t₁
  obtain ⟨u, h₃⟩ := step_total v
  have two (hv : v.halted = false) : v.freezeIn = [] ∧ ∃ f₁ d₁ f₂ d₂, v = commit f₂ d₂ (commit f₁ d₁ t.tick).tick := by
    obtain ⟨hq₁, f₁, d₁, rfl⟩ := step_commits_of_no_inputs hq h₁ (not_halted_of_step h₂ hv)
    obtain ⟨hq₂, f₂, d₂, rfl⟩ := step_commits_of_no_inputs hq₁ h₂ hv
    exact ⟨hq₂, f₁, d₁, f₂, d₂, rfl⟩
  refine ⟨v, u, by rw [runFor_succ 1 h₁, runFor_succ 0 h₂]; rfl, h₃, fun hv => ?_, fun hu => ?_⟩
  · obtain ⟨-, f₁, d₁, f₂, d₂, rfl⟩ := two hv
    exact ⟨commit_twice_mem .., commit_twice_dataFaults ..⟩
  · obtain ⟨hq₂, f₁, d₁, f₂, d₂, rfl⟩ := two (not_halted_of_step h₃ hu)
    obtain ⟨-, f₃, d₃, rfl⟩ := step_commits_of_no_inputs hq₂ h₃ hu
    exact commit_thrice_x ..

end Sys2Proof.Machine
end

section
/-! Proofs of the statements about Decode's output: the fields, immediate, flags and target of the D latch. -/

namespace Sys2Proof.Machine

/-! ## The raw fields of an encoded word (R162) -/

/-- The raw fields cut from a word (R111). -/
def rawFieldsOf (w : Word) : RawFields :=
  { rd := rdOf w, funct3 := funct3Of w, rs1 := rs1Of w, rs2 := rs2Of w, funct7 := funct7Of w }

theorem rawFieldsOf_encR (f7 : BitVec 7) (rs2 rs1 : RegIdx) (f3 : BitVec 3) (rd : RegIdx) (op : BitVec 7) :
    rawFieldsOf (encR f7 rs2 rs1 f3 rd op) = rawR f7 rs2 rs1 f3 rd := by
  simp [rawFieldsOf, rawR]

theorem rs2Of_encI (imm : BitVec 12) (rs1 : RegIdx) (f3 : BitVec 3) (rd : RegIdx) (op : BitVec 7) :
    rs2Of (encI imm rs1 f3 rd op) = imm.extractLsb' 0 5 := by
  apply BitVec.eq_of_getLsbD_eq
  intro i hi
  simp only [rs2Of, encI, BitVec.getLsbD_extractLsb', BitVec.getLsbD_cast, BitVec.getLsbD_append]
  interval_cases i <;> simp

theorem funct7Of_encI (imm : BitVec 12) (rs1 : RegIdx) (f3 : BitVec 3) (rd : RegIdx) (op : BitVec 7) :
    funct7Of (encI imm rs1 f3 rd op) = imm.extractLsb' 5 7 := by
  apply BitVec.eq_of_getLsbD_eq
  intro i hi
  simp only [funct7Of, encI, BitVec.getLsbD_extractLsb', BitVec.getLsbD_cast, BitVec.getLsbD_append]
  interval_cases i <;> simp

theorem rawFieldsOf_encI (imm : BitVec 12) (rs1 : RegIdx) (f3 : BitVec 3) (rd : RegIdx) (op : BitVec 7) :
    rawFieldsOf (encI imm rs1 f3 rd op) = rawI imm rs1 f3 rd := by
  simp [rawFieldsOf, rawI, rs2Of_encI, funct7Of_encI]

theorem rdOf_encS (imm : BitVec 12) (rs2 rs1 : RegIdx) (f3 : BitVec 3) (op : BitVec 7) :
    rdOf (encS imm rs2 rs1 f3 op) = imm.extractLsb' 0 5 := by
  apply BitVec.eq_of_getLsbD_eq
  intro i hi
  simp only [rdOf, encS, BitVec.getLsbD_extractLsb', BitVec.getLsbD_cast, BitVec.getLsbD_append]
  interval_cases i <;> simp

theorem funct7Of_encS (imm : BitVec 12) (rs2 rs1 : RegIdx) (f3 : BitVec 3) (op : BitVec 7) :
    funct7Of (encS imm rs2 rs1 f3 op) = imm.extractLsb' 5 7 := by
  apply BitVec.eq_of_getLsbD_eq
  intro i hi
  simp only [funct7Of, encS, BitVec.getLsbD_extractLsb', BitVec.getLsbD_cast, BitVec.getLsbD_append]
  interval_cases i <;> simp

theorem rawFieldsOf_encS (imm : BitVec 12) (rs2 rs1 : RegIdx) (f3 : BitVec 3) (op : BitVec 7) :
    rawFieldsOf (encS imm rs2 rs1 f3 op) = rawS imm rs2 rs1 f3 := by
  simp [rawFieldsOf, rawS, rdOf_encS, funct7Of_encS]

theorem rdOf_encB (offset : BitVec 13) (rs2 rs1 : RegIdx) (f3 : BitVec 3) (op : BitVec 7) :
    rdOf (encB offset rs2 rs1 f3 op) = (rawB offset rs2 rs1 f3).rd := by
  apply BitVec.eq_of_getLsbD_eq
  intro i hi
  simp only [rdOf, rawB, encB, BitVec.getLsbD_extractLsb', BitVec.getLsbD_cast, BitVec.getLsbD_append]
  interval_cases i <;> simp

theorem funct7Of_encB (offset : BitVec 13) (rs2 rs1 : RegIdx) (f3 : BitVec 3) (op : BitVec 7) :
    funct7Of (encB offset rs2 rs1 f3 op) = (rawB offset rs2 rs1 f3).funct7 := by
  apply BitVec.eq_of_getLsbD_eq
  intro i hi
  simp only [funct7Of, rawB, encB, BitVec.getLsbD_extractLsb', BitVec.getLsbD_cast, BitVec.getLsbD_append]
  interval_cases i <;> simp

theorem rawFieldsOf_encB (offset : BitVec 13) (rs2 rs1 : RegIdx) (f3 : BitVec 3) (op : BitVec 7) :
    rawFieldsOf (encB offset rs2 rs1 f3 op) = rawB offset rs2 rs1 f3 := by
  rw [rawFieldsOf, rdOf_encB, funct3Of_encB, rs1Of_encB, rs2Of_encB, funct7Of_encB]
  rfl

/-- The fields of a U-format word but rd are parts of the immediate (R116). -/
theorem rawFieldsOf_encU (imm : BitVec 20) (rd : RegIdx) (op : BitVec 7) : rawFieldsOf (encU imm rd op) = rawU imm rd := by
  simp only [rawFieldsOf, rawU, rdOf_encU, RawFields.mk.injEq, true_and]
  refine ⟨?_, ?_, ?_, ?_⟩ <;> apply BitVec.eq_of_getLsbD_eq <;> intro i hi <;>
    simp only [funct3Of, rs1Of, rs2Of, funct7Of, encU, BitVec.getLsbD_extractLsb', BitVec.getLsbD_cast, BitVec.getLsbD_append] <;>
    interval_cases i <;> simp

/-- The fields of a J-format word but rd are parts of the offset (R117). -/
theorem rawFieldsOf_encJ (offset : BitVec 21) (rd : RegIdx) (op : BitVec 7) :
    rawFieldsOf (encJ offset rd op) = rawJ offset rd := by
  simp only [rawFieldsOf, rawJ, rdOf_encJ, RawFields.mk.injEq, true_and]
  refine ⟨?_, ?_, ?_, ?_⟩ <;> apply BitVec.eq_of_getLsbD_eq <;> intro i hi <;>
    simp only [funct3Of, rs1Of, rs2Of, funct7Of, encJ, BitVec.getLsbD_extractLsb', BitVec.getLsbD_cast, BitVec.getLsbD_append] <;>
    interval_cases i <;> simp

/-- The immediate field of a shift-immediate word, which has the R format with `shamt` in place of rs2 (R113, R124). -/
theorem immIField_encR (f7 : BitVec 7) (rs2 rs1 : RegIdx) (f3 : BitVec 3) (rd : RegIdx) (op : BitVec 7) :
    immIField (encR f7 rs2 rs1 f3 rd op) = shiftField f7 rs2 := by
  apply BitVec.eq_of_getLsbD_eq
  intro i hi
  simp only [immIField, shiftField, encR, BitVec.getLsbD_extractLsb', BitVec.getLsbD_cast, BitVec.getLsbD_append]
  interval_cases i <;> simp

/-! ## The D latch by class -/

/-- The D latch of a class, from raw fields, an immediate and whether a branch is taken. -/
def classLatch (c : Class) (r : RawFields) (imm : Word) (taken : Bool) (s : State) : DLatch :=
  match c with
  | .aluReg => aluRegLatch r s
  | .aluImm => aluImmLatch r imm s
  | .load => loadLatch r imm s
  | .store => storeLatch r imm s
  | .lui => luiLatch r imm s
  | .jal => jalLatch r imm s
  | .jalr => jalrLatch r imm s
  | .branch => branchLatch r imm taken s

/-- An instruction's D latch is its class's, with the raw fields of its word. -/
theorem decodedLatch_eq_classLatch (i : Instr) (s : State) :
    decodedLatch i s =
      classLatch i.cls (rawFieldsOf (encode i)) (decodedLatch i s).imm (decodedLatch i s).branchValid s := by
  cases i with
  | add | sub | sll | slt | sltu | xor | srl | sra | or | and => rw [encode, rawFieldsOf_encR]; rfl
  | slli | srli | srai => rw [encode, rawFieldsOf_encR]; rfl
  | addi | slti | sltiu | xori | ori | andi => rw [encode, rawFieldsOf_encI]; rfl
  | lb | lh | lw | lbu | lhu | jalr => rw [encode, rawFieldsOf_encI]; rfl
  | sb | sh | sw => rw [encode, rawFieldsOf_encS]; rfl
  | lui => rw [encode, rawFieldsOf_encU]; rfl
  | jal => rw [encode, rawFieldsOf_encJ]; rfl
  | beq | bne | blt | bge | bltu | bgeu => rw [encode, rawFieldsOf_encB]; rfl

/-- What Decode fills alike for every class: the raw fields (R162), the register reads (R163) and `pcPlus4` (R167). -/
structure DLatch.FilledFrom (d : DLatch) (r : RawFields) (s : State) : Prop where
  rd : d.rd = r.rd
  funct3 : d.funct3 = r.funct3
  funct7 : d.funct7 = r.funct7
  shamt : d.shamt = r.rs2
  rs1 : d.rs1 = r.rs1
  rs2 : d.rs2 = r.rs2
  rs1Value : d.rs1Value = s.readReg r.rs1
  rs2Value : d.rs2Value = s.readReg r.rs2
  pcPlus4 : d.pcPlus4 = s.f.pcPlus4

theorem classLatch_filledFrom (c : Class) (r : RawFields) (imm : Word) (taken : Bool) (s : State) :
    (classLatch c r imm taken s).FilledFrom r s := by
  cases c <;> constructor <;> rfl

theorem decodedLatch_filledFrom {w : Word} {i : Instr} (h : decode w = .instr i) (s : State) :
    (decodedLatch i s).FilledFrom (rawFieldsOf w) s := by
  obtain ⟨-, rfl⟩ := encodeOfDecode w i h
  rw [decodedLatch_eq_classLatch]
  exact classLatch_filledFrom ..

/-- The D latch of a cycle that completes Decode and whose fetch succeeds. -/
theorem exec_d_of_fetches {s : State} {w : Word} (hw : s.fetches w) (i : Instr) :
    ∃ t, exec i s = .next t ∧ t.d = decodedLatch i s :=
  ⟨_, exec_eq i s, by rw [advance_of_fetches hw, commit_d]⟩

/-- Settles O22: the instruction's latch is filled from the raw fields of the word it was decoded from. -/
theorem rawFieldsComeFromTheWord : Obligations.RawFieldsComeFromTheWord := by
  intro s i w hi hw
  obtain ⟨t, ht, hd⟩ := exec_d_of_fetches hw i
  obtain ⟨rd, f3, f7, shamt, rs1, rs2, v1, v2, next⟩ := decodedLatch_filledFrom hi s
  rw [← hd] at rd f3 f7 shamt rs1 rs2 v1 v2 next
  exact ⟨t, ht, rd, f3, f7, shamt, rs1, rs2, v1, v2, next⟩

/-! ## The immediate (R164) -/

/-- The immediate of a word of the class, by its format (R118 to R123). -/
def immediateOf (c : Class) (w : Word) : Word :=
  match c with
  | .aluReg => 0#32
  | .aluImm => sext12 (immIField w)
  | .load => sext12 (immIField w)
  | .jalr => sext12 (immIField w)
  | .store => sext12 (immSField w)
  | .branch => sext13 (immBField w)
  | .lui => upper20 (immUField w)
  | .jal => sext21 (immJField w)

/-- Decode extends the immediate of the word's format; the offsets of JAL and the branches are even, so no bit of them is lost in
the word. -/
theorem decodedLatch_imm {w : Word} {i : Instr} (h : decode w = .instr i) (s : State) :
    (decodedLatch i s).imm = immediateOf i.cls w := by
  obtain ⟨hwf, rfl⟩ := encodeOfDecode w i h
  cases i with
  | add | sub | sll | slt | sltu | xor | srl | sra | or | and => rfl
  | slli | srli | srai => exact congrArg sext12 (immIField_encR ..).symm
  | addi | slti | sltiu | xori | ori | andi => exact congrArg sext12 (immIField_encI ..).symm
  | lb | lh | lw | lbu | lhu | jalr => exact congrArg sext12 (immIField_encI ..).symm
  | sb | sh | sw => exact congrArg sext12 (immSField_encS ..).symm
  | lui => exact congrArg upper20 (immUField_encU ..).symm
  | jal => exact congrArg sext21 (immJField_encJ _ _ _ (by simpa [Instr.wf] using hwf)).symm
  | beq | bne | blt | bge | bltu | bgeu =>
    exact congrArg sext13 (immBField_encB _ _ _ _ _ (by simpa [Instr.wf] using hwf)).symm

/-- Settles O23 with `decodedLatch_imm`, class by class. -/
theorem immediateFollowsTheFormat : Obligations.ImmediateFollowsTheFormat := by
  intro s i w hi hw
  obtain ⟨t, ht, hd⟩ := exec_d_of_fetches hw i
  refine ⟨t, ht, ?_⟩
  rw [hd, decodedLatch_imm hi]
  cases i.cls <;> rfl

/-! ## Flags and write enable (R165, R166) -/

/-- Settles O24: each class's latch sets the class's own flag, and its write enable is R166's. -/
theorem classFlagsAndWriteEnable : Obligations.ClassFlagsAndWriteEnable := by
  intro s i w hw
  obtain ⟨t, ht, hd⟩ := exec_d_of_fetches hw i
  refine ⟨t, ht, ?_⟩
  rw [hd, decodedLatch_eq_classLatch]
  cases i.cls <;> exact ⟨rfl, rfl, rfl, rfl, rfl, rfl, rfl, rfl, rfl, rfl⟩

/-! ## Targets (R169) -/

/-- A class without a transfer presents no target. -/
theorem classLatch_no_target {c : Class} (hc : c ∉ [Class.jal, .jalr, .branch]) (r : RawFields) (imm : Word) (taken : Bool)
    (s : State) :
    (classLatch c r imm taken s).branchValid = false ∧ (classLatch c r imm taken s).branchTarget = 0#32 := by
  cases c with
  | aluReg | aluImm | load | store | lui => exact ⟨rfl, rfl⟩
  | jal | jalr | branch => simp at hc

theorem condEq_eq (a b : Word) : condEq a b = decide (a = b) := rfl

theorem condNe_eq (a b : Word) : condNe a b = decide (a ≠ b) := decide_not.symm

theorem condGe_eq (a b : Word) : condGe a b = decide (¬ a.toInt < b.toInt) := decide_not.symm

theorem condGeu_eq (a b : Word) : condGeu a b = decide (¬ a.toNat < b.toNat) := decide_not.symm

/-- Settles O25: the target and valid flag of each kind of latch, the branch conditions being R168's comparisons. -/
theorem transfersResolveInDecode : Obligations.TransfersResolveInDecode := by
  intro s w hw
  refine ⟨fun i hc => ?_, fun rd offset => ?_, fun rd rs1 imm => ?_, fun rs1 rs2 offset => ?_⟩
  · obtain ⟨t, ht, hd⟩ := exec_d_of_fetches hw i
    refine ⟨t, ht, ?_⟩
    rw [hd, decodedLatch_eq_classLatch]
    exact classLatch_no_target hc ..
  · obtain ⟨t, ht, hd⟩ := exec_d_of_fetches hw (.jal rd offset)
    exact ⟨t, ht, by rw [hd]; exact ⟨rfl, rfl⟩⟩
  · obtain ⟨t, ht, hd⟩ := exec_d_of_fetches hw (.jalr rd rs1 imm)
    exact ⟨t, ht, by rw [hd]; exact ⟨rfl, rfl⟩⟩
  · intro a b row hrow
    obtain ⟨t, ht, hd⟩ := exec_d_of_fetches hw row.1
    refine ⟨t, ht, ?_⟩
    rw [hd]
    simp only [← condEq_eq, ← condNe_eq, ← condGe_eq, ← condGeu_eq, List.mem_cons, List.not_mem_nil, or_false] at hrow
    rcases hrow with rfl | rfl | rfl | rfl | rfl | rfl <;> exact ⟨rfl, rfl⟩

end Sys2Proof.Machine
end

section
/-! Proofs of the statements about the architectural view: stalled and squashing cycles keep it, and an instruction without a
hazard changes it by its rule. -/

namespace Sys2Proof.Machine

/-! ## What a D latch adds to the view -/

/-- The view once a D latch has finished too, the word that follows it unless it transfers being at `next`. -/
def Arch.finish (c : Config) (a : Arch) (d : DLatch) (next : Word) : Arch :=
  { x := writeBack a.x (effectOf c a.mem d).m
    pc := if d.branchValid then d.branchTarget else next
    mem := applyWrite a.mem (effectOf c a.mem d).write
    faults := a.faults ++ (effectOf c a.mem d).fault.toList }

/-- A cycle that commits adds to the view the D latch it makes. -/
theorem arch_commit_step (f' : FLatch) (d' : DLatch) (s : State) :
    (commit f' d' s.dropFreeze.tick).arch = s.arch.finish s.cfg d' f'.pc := by
  rw [arch_commit, arch_dropFreeze]
  rfl

theorem finish_bubble (c : Config) (a : Arch) (next : Word) : a.finish c DLatch.bubble next = { a with pc := next } := by
  rw [Arch.finish, effectOf_bubble]
  simp [applyWrite, DLatch.bubble]

/-- Settles O37: a stalled or squashing cycle commits a bubble, and the word at the view's pc is still to be decoded. -/
theorem stallAndSquashKeepTheArchitecture : Obligations.StallAndSquashKeepTheArchitecture := by
  intro s t hr hcase ht hh
  obtain ⟨f', d', hc, rfl⟩ := step_commits hr ht hh
  rw [arch_commit_step]
  cases hc with
  | stalled hs =>
    have hpc : s.arch.pc = s.f.pc := if_neg (Bool.eq_false_iff.1 (squashes_of_stall hs))
    rw [finish_bubble, ← hpc]
  | @advanced hs w hw =>
    have hq : squashes s = true := hcase.resolve_left (by simp [hs])
    have hpc : s.arch.pc = (fetched s w).pc := Eq.trans (if_pos hq) (if_pos hq).symm
    rw [decodeOutput_of_squash hq, finish_bubble, ← hpc]

/-! ## The effect of a D latch by its flags -/

/-- A write enable that rules out `x0` loses nothing, for a write to `x0` is discarded (R36). -/
theorem writeBack_enable (x : Vector Word 31) (v : Word) (rd : RegIdx) (b : Bool) :
    writeBack x { wbValue := v, rd := rd, wbValid := b && rd != 0#5 } = if b then writeFile x rd v else x := by
  by_cases h : rd = 0#5
  · simp [writeBack, h]
  · simp [writeBack, h]

section Flags

variable {c : Config} {a : Arch} {d : DLatch}

/-- A latch without an access changes registers and pc only. -/
theorem finish_pass (hs : d.isStore = false) (hl : d.isLoad = false) (next : Word) :
    a.finish c d next =
      { a with
        x := writeBack a.x { wbValue := executeResult c d, rd := d.rd, wbValid := d.wbEnable }
        pc := if d.branchValid then d.branchTarget else next } := by
  have he : effectOf c a.mem d = _ := memoryStage_pass c a.mem (e := executeStage c d) hs hl
  rw [Arch.finish, he]
  simp [applyWrite, executeStage]

theorem finish_write (hs : d.isStore = false) (hl : d.isLoad = false) (hv : d.branchValid = false)
    (hw : d.wbEnable = (d.rd != 0#5)) : a.finish c d (a.pc + 4#32) = a.write d.rd (executeResult c d) := by
  have hx := writeBack_enable a.x (executeResult c d) d.rd true
  rw [Bool.true_and, ← hw, if_pos rfl] at hx
  rw [finish_pass hs hl, hx, hv]
  rfl

theorem finish_alu (halu : d.isAlu = true) (hs : d.isStore = false) (hl : d.isLoad = false) (hv : d.branchValid = false)
    (hw : d.wbEnable = (d.rd != 0#5)) {v : Word} (h : alu c d = v) : a.finish c d (a.pc + 4#32) = a.write d.rd v := by
  have hres : executeResult c d = alu c d := if_pos halu
  rw [finish_write hs hl hv hw, hres, h]

theorem finish_jump (hs : d.isStore = false) (hl : d.isLoad = false) (hv : d.branchValid = true)
    (hw : d.wbEnable = (c.linkWrite && d.rd != 0#5)) (hres : c.linkWrite = true → executeResult c d = a.pc + 4#32)
    (next : Word) : a.finish c d next = a.jump c d.rd d.branchTarget := by
  rw [finish_pass hs hl, hw, writeBack_enable, hv, Arch.jump]
  cases hc : c.linkWrite with
  | false => rfl
  | true => rw [hres hc]; rfl

theorem finish_load (hs : d.isStore = false) (hl : d.isLoad = true) (hv : d.branchValid = false)
    (hw : d.wbEnable = (d.rd != 0#5)) {n : Width} (hn : widthOf d.funct3 = n) {ext : Word → Word}
    (hext : ∀ v, extendLoaded d.funct3 n v = ext v) :
    a.finish c d (a.pc + 4#32) = a.load c d.rd (d.rs1Value + d.imm) n ext := by
  subst hn
  cases h : busRead c a.mem (d.rs1Value + d.imm) (widthOf d.funct3) with
  | ok v =>
    have he : effectOf c a.mem d = _ := memoryStage_load_ok (e := executeStage c d) hs hl h
    have hx := writeBack_enable a.x (ext v) d.rd true
    rw [Bool.true_and, ← hw, if_pos rfl] at hx
    simp [Arch.finish, Arch.load, Arch.write, h, he, hv, executeStage, hext, hx, applyWrite]
  | error k =>
    have he : effectOf c a.mem d = _ := memoryStage_load_error (e := executeStage c d) hs hl h
    simp [Arch.finish, Arch.load, h, he, hv, executeStage, effectiveAddr, writeBack, applyWrite]

theorem finish_store (hs : d.isStore = true) (hv : d.branchValid = false) :
    a.finish c d (a.pc + 4#32) = a.store c (d.rs1Value + d.imm) (widthOf d.funct3) d.rs2Value := by
  cases h : busWrite c (d.rs1Value + d.imm) (widthOf d.funct3) d.rs2Value with
  | ok w =>
    have he : effectOf c a.mem d = _ := memoryStage_store_ok (e := executeStage c d) hs h
    simp [Arch.finish, Arch.store, h, he, hv, writeBack, applyWrite]
  | error k =>
    have he : effectOf c a.mem d = _ := memoryStage_store_error (e := executeStage c d) hs h
    simp [Arch.finish, Arch.store, h, he, hv, executeStage, effectiveAddr, writeBack, applyWrite]

end Flags

theorem finish_branch {c : Config} {a : Arch} {s : State} (hpc : s.f.pc = a.pc) (r : RawFields) (offset : BitVec 13)
    (taken : Bool) : a.finish c (branchLatch r (sext13 offset) taken s) (a.pc + 4#32) = a.branch taken offset := by
  rw [finish_pass rfl rfl, Arch.branch, ← hpc]
  cases taken <;> rfl

/-! ## The values that the ALU computes for each instruction (R203 to R221) -/

theorem boolWord_decide (p : Prop) [Decidable p] : boolWord (decide p) = if p then 1#32 else 0#32 := by simp [boolWord]

/-- The ALU's shift amount is the `shamt` of a shift-immediate word (R124, R221). -/
theorem low5_shiftField (f7 : BitVec 7) (shamt : BitVec 5) : low5 (sext12 (shiftField f7 shamt)) = shamt.toNat := by
  have h : (sext12 (shiftField f7 shamt)).extractLsb' 0 5 = shamt := by
    apply BitVec.eq_of_getLsbD_eq
    intro i hi
    simp only [sext12, shiftField, BitVec.getLsbD_extractLsb', BitVec.getLsbD_signExtend, BitVec.getLsbD_cast,
      BitVec.getLsbD_append]
    interval_cases i <;> simp
  rw [low5, h]

section Funct7

variable {c : Config} {d : DLatch}

theorem alu_addition (hf : d.funct3 = 0b000#3) (hr : d.aluReg = true) (h7 : d.funct7.getLsbD 5 = false) :
    alu c d = d.rs1Value + d.rs2Value := by
  rw [alu, h7, hf, hr]
  rfl

theorem alu_subtraction (hf : d.funct3 = 0b000#3) (hr : d.aluReg = true) (h7 : d.funct7.getLsbD 5 = true) :
    alu c d = d.rs1Value - d.rs2Value := by
  rw [alu, h7, hf, hr]
  rfl

theorem alu_logicalShift (hf : d.funct3 = 0b101#3) (h7 : d.funct7.getLsbD 5 = false) :
    alu c d = d.rs1Value >>> low5 (if d.aluReg then d.rs2Value else d.imm) := by
  rw [alu, h7, hf]
  simp [shiftRight, low5]

theorem alu_sraShift (hf : d.funct3 = 0b101#3) (h7 : d.funct7.getLsbD 5 = true) :
    alu c d = sraValue c d.rs1Value (low5 (if d.aluReg then d.rs2Value else d.imm)) := by
  rw [alu, h7, hf]
  simp [shiftRight, sraValue, low5]

theorem funct7_plain : (0b0000000#7 : BitVec 7).getLsbD 5 = false := by decide

theorem funct7_alternative : (0b0100000#7 : BitVec 7).getLsbD 5 = true := by decide

end Funct7

section AluValues

variable (s : State) (rd rs1 rs2 : RegIdx) (imm : BitVec 12) (shamt : BitVec 5)

@[simp] theorem alu_add : alu s.cfg (decodedLatch (.add rd rs1 rs2) s) = s.readReg rs1 + s.readReg rs2 :=
  alu_addition rfl rfl funct7_plain

@[simp] theorem alu_sub : alu s.cfg (decodedLatch (.sub rd rs1 rs2) s) = s.readReg rs1 - s.readReg rs2 :=
  alu_subtraction rfl rfl funct7_alternative

@[simp] theorem alu_sll : alu s.cfg (decodedLatch (.sll rd rs1 rs2) s) =
    s.readReg rs1 <<< low5 (s.readReg rs2) := rfl

@[simp] theorem alu_slt : alu s.cfg (decodedLatch (.slt rd rs1 rs2) s) =
    if (s.readReg rs1).toInt < (s.readReg rs2).toInt then 1#32 else 0#32 :=
  boolWord_decide _

@[simp] theorem alu_sltu : alu s.cfg (decodedLatch (.sltu rd rs1 rs2) s) =
    if (s.readReg rs1).toNat < (s.readReg rs2).toNat then 1#32 else 0#32 :=
  boolWord_decide _

@[simp] theorem alu_xor : alu s.cfg (decodedLatch (.xor rd rs1 rs2) s) = s.readReg rs1 ^^^ s.readReg rs2 := rfl

@[simp] theorem alu_srl : alu s.cfg (decodedLatch (.srl rd rs1 rs2) s) =
    s.readReg rs1 >>> low5 (s.readReg rs2) := alu_logicalShift rfl funct7_plain

@[simp] theorem alu_sra : alu s.cfg (decodedLatch (.sra rd rs1 rs2) s) =
    sraValue s.cfg (s.readReg rs1) (low5 (s.readReg rs2)) :=
  alu_sraShift rfl funct7_alternative

@[simp] theorem alu_or : alu s.cfg (decodedLatch (.or rd rs1 rs2) s) = s.readReg rs1 ||| s.readReg rs2 := rfl

@[simp] theorem alu_and : alu s.cfg (decodedLatch (.and rd rs1 rs2) s) = s.readReg rs1 &&& s.readReg rs2 := rfl

@[simp] theorem alu_addi : alu s.cfg (decodedLatch (.addi rd rs1 imm) s) = s.readReg rs1 + sext12 imm := rfl

@[simp] theorem alu_slti : alu s.cfg (decodedLatch (.slti rd rs1 imm) s) =
    if (s.readReg rs1).toInt < (sext12 imm).toInt then 1#32 else 0#32 := boolWord_decide _

@[simp] theorem alu_sltiu : alu s.cfg (decodedLatch (.sltiu rd rs1 imm) s) =
    if (s.readReg rs1).toNat < (sext12 imm).toNat then 1#32 else 0#32 := boolWord_decide _

@[simp] theorem alu_xori : alu s.cfg (decodedLatch (.xori rd rs1 imm) s) = s.readReg rs1 ^^^ sext12 imm := rfl

@[simp] theorem alu_ori : alu s.cfg (decodedLatch (.ori rd rs1 imm) s) = s.readReg rs1 ||| sext12 imm := rfl

@[simp] theorem alu_andi : alu s.cfg (decodedLatch (.andi rd rs1 imm) s) = s.readReg rs1 &&& sext12 imm := rfl

@[simp] theorem alu_slli : alu s.cfg (decodedLatch (.slli rd rs1 shamt) s) =
    s.readReg rs1 <<< shamt.toNat :=
  congrArg (s.readReg rs1 <<< ·) (low5_shiftField _ shamt)

@[simp] theorem alu_srli : alu s.cfg (decodedLatch (.srli rd rs1 shamt) s) =
    s.readReg rs1 >>> shamt.toNat := by
  rw [← low5_shiftField 0b0000000#7 shamt]
  exact alu_logicalShift rfl funct7_plain

@[simp] theorem alu_srai : alu s.cfg (decodedLatch (.srai rd rs1 shamt) s) =
    sraValue s.cfg (s.readReg rs1) shamt.toNat := by
  rw [← low5_shiftField 0b0100000#7 shamt]
  exact alu_sraShift rfl funct7_alternative

end AluValues

/-! ## The accesses and conditions of the rules

The widths and extensions that the funct3 of the loads select (R280), and the conditions of the branches (R168). -/

theorem widthOf_lbu : widthOf 0b100#3 = .byte := by decide

theorem widthOf_lhu : widthOf 0b101#3 = .half := by decide

theorem extendLoaded_lb (v : Word) : extendLoaded 0b000#3 .byte v = (v.setWidth 8).signExtend 32 := by simp [extendLoaded]

theorem extendLoaded_lh (v : Word) : extendLoaded 0b001#3 .half v = (v.setWidth 16).signExtend 32 := by simp [extendLoaded]

theorem extendLoaded_lw (v : Word) : extendLoaded 0b010#3 .word v = v := by simp [extendLoaded]

theorem extendLoaded_lbu (v : Word) : extendLoaded 0b100#3 .byte v = (v.setWidth 8).setWidth 32 := by simp [extendLoaded]

theorem extendLoaded_lhu (v : Word) : extendLoaded 0b101#3 .half v = (v.setWidth 16).setWidth 32 := by simp [extendLoaded]

theorem condLt_eq (a b : Word) : condLt a b = decide (a.toInt < b.toInt) := rfl

theorem condLtu_eq (a b : Word) : condLtu a b = decide (a.toNat < b.toNat) := rfl

theorem condGe_eq_le (a b : Word) : condGe a b = decide (b.toInt ≤ a.toInt) :=
  (condGe_eq a b).trans (decide_eq_decide.2 not_lt)

theorem condGeu_eq_le (a b : Word) : condGeu a b = decide (b.toNat ≤ a.toNat) :=
  (condGeu_eq a b).trans (decide_eq_decide.2 not_lt)

/-! ## Each instruction's rule -/

/-- The registers of the view that the instruction reads by its class (R157) are those Decode reads. -/
structure OperandsFinal (i : Instr) (s : State) (a : Arch) : Prop where
  rs1 : readsRs1 i.cls = true → s.readReg (rs1Of (encode i)) = a.reg (rs1Of (encode i))
  rs2 : readsRs2 i.cls = true → s.readReg (rs2Of (encode i)) = a.reg (rs2Of (encode i))

/-- Without a hazard, no older instruction will still write a register that the word reads (R156). -/
theorem operandsFinal_of_no_hazard {s : State} {i : Instr} (hd : decode s.f.instruction = .instr i)
    (hz : hazard s.f.instruction s = false) : OperandsFinal i s s.arch := by
  obtain ⟨-, he⟩ := encodeOfDecode _ i hd
  have none_pending := mt hazard_iff.2 (Bool.eq_false_iff.1 hz)
  rw [← he] at none_pending hd
  exact ⟨fun hc => readReg_of_not_pending (Bool.eq_false_iff.2 fun hp => none_pending ⟨i, hd, .inl ⟨hc, hp⟩⟩),
    fun hc => readReg_of_not_pending (Bool.eq_false_iff.2 fun hp => none_pending ⟨i, hd, .inr ⟨hc, hp⟩⟩)⟩

/-- Where the operands are final, what an instruction's D latch adds to the view is the instruction's rule, class by class. -/
theorem finish_decodedLatch {i : Instr} {s : State} {a : Arch} (ops : OperandsFinal i s a) (hpc : s.f.pc = a.pc)
    (hnext : s.f.pcPlus4 = a.pc + 4#32) :
    a.finish s.cfg (decodedLatch i s) (a.pc + 4#32) = isaExec s.cfg i a := by
  obtain ⟨h1, h2⟩ := ops
  cases i with
  | add rd rs1 rs2 | sub rd rs1 rs2 | sll rd rs1 rs2 | slt rd rs1 rs2 | sltu rd rs1 rs2
  | xor rd rs1 rs2 | srl rd rs1 rs2 | sra rd rs1 rs2 | or rd rs1 rs2 | and rd rs1 rs2 =>
    rw [encode, rs1Of_encR] at h1
    rw [encode, rs2Of_encR] at h2
    refine finish_alu rfl rfl rfl rfl rfl ?_
    simp [h1 rfl, h2 rfl]
  | addi rd rs1 imm | slti rd rs1 imm | sltiu rd rs1 imm | xori rd rs1 imm | ori rd rs1 imm | andi rd rs1 imm =>
    rw [encode, rs1Of_encI] at h1
    refine finish_alu rfl rfl rfl rfl rfl ?_
    simp [h1 rfl]
  | slli rd rs1 shamt | srli rd rs1 shamt | srai rd rs1 shamt =>
    rw [encode, rs1Of_encR] at h1
    refine finish_alu rfl rfl rfl rfl rfl ?_
    simp [h1 rfl]
  | lb rd rs1 imm =>
    rw [encode, rs1Of_encI] at h1
    rw [isaExec, ← h1 rfl]
    exact finish_load rfl rfl rfl rfl rfl extendLoaded_lb
  | lh rd rs1 imm =>
    rw [encode, rs1Of_encI] at h1
    rw [isaExec, ← h1 rfl]
    exact finish_load rfl rfl rfl rfl rfl extendLoaded_lh
  | lw rd rs1 imm =>
    rw [encode, rs1Of_encI] at h1
    rw [isaExec, ← h1 rfl]
    exact finish_load rfl rfl rfl rfl rfl extendLoaded_lw
  | lbu rd rs1 imm =>
    rw [encode, rs1Of_encI] at h1
    rw [isaExec, ← h1 rfl]
    exact finish_load rfl rfl rfl rfl widthOf_lbu extendLoaded_lbu
  | lhu rd rs1 imm =>
    rw [encode, rs1Of_encI] at h1
    rw [isaExec, ← h1 rfl]
    exact finish_load rfl rfl rfl rfl widthOf_lhu extendLoaded_lhu
  | sb rs2 rs1 imm | sh rs2 rs1 imm | sw rs2 rs1 imm =>
    rw [encode, rs1Of_encS] at h1
    rw [encode, rs2Of_encS] at h2
    rw [isaExec, ← h1 rfl, ← h2 rfl]
    exact finish_store rfl rfl
  | lui rd imm20 => exact finish_write rfl rfl rfl rfl
  | jal rd offset =>
    rw [isaExec, ← hpc]
    refine Eq.trans (finish_jump rfl rfl rfl rfl ?_ _) rfl
    exact fun hlink => (if_pos hlink).trans hnext
  | jalr rd rs1 imm =>
    rw [encode, rs1Of_encI] at h1
    rw [isaExec, ← h1 rfl]
    refine Eq.trans (finish_jump rfl rfl rfl rfl ?_ _) rfl
    exact fun hlink => (if_pos hlink).trans hnext
  | beq rs1 rs2 offset | bne rs1 rs2 offset | blt rs1 rs2 offset | bge rs1 rs2 offset | bltu rs1 rs2 offset
  | bgeu rs1 rs2 offset =>
    rw [encode, rs1Of_encB] at h1
    rw [encode, rs2Of_encB] at h2
    refine (finish_branch hpc _ offset _).trans (congrArg (a.branch · offset) ?_)
    simp only [← h1 rfl, ← h2 rfl, condEq_eq, condNe_eq, condLt_eq, condGe_eq_le, condLtu_eq, condGeu_eq_le]

/-- Settles O36: the cycle commits the instruction's D latch, which adds the instruction's rule to the view. -/
theorem pipelineRefinesSequentialExecution : Obligations.PipelineRefinesSequentialExecution := by
  intro s i w hr hq hnext hd hz hw
  have hpc : s.arch.pc = s.f.pc := if_neg (Bool.eq_false_iff.1 hq)
  have hfetch : fetchAddr s = s.arch.pc + 4#32 := (if_neg (Bool.eq_false_iff.1 hq)).trans (by rw [hnext, hpc])
  have ht := step_of_decoded hr hq (by simp [stalls, hz]) hd
  rw [exec_eq, decodedLatch_dropFreeze, advance_of_fetches_step hw] at ht
  refine ⟨_, ht, by simpa using (runs_iff.1 hr).1, ?_⟩
  rw [arch_commit_step, fetched, hfetch]
  exact finish_decodedLatch (operandsFinal_of_no_hazard hd hz) hpc.symm (by rw [hnext, hpc])

end Sys2Proof.Machine
end

section
/-! Proofs of the statements about the integer ALU instructions: result and frame over the architectural view, and the spec's
example words. -/

namespace Sys2Proof

/-- Settles O53 by running the decoder on the twelve words. -/
theorem exampleWordsDecode : Obligations.ExampleWordsDecode := by
  unfold Obligations.ExampleWordsDecode
  decide

end Sys2Proof

namespace Sys2Proof.Machine

/-! ## The cycle in which an instruction completes Decode, over the view (R181) -/

/-- A cycle that commits keeps the configuration, the halt status and the inputs, and counts. -/
theorem commit_cycleKept (f' : FLatch) (d' : DLatch) (s : State) : CycleKept s (commit f' d' s.tick) := by
  constructor <;> simp

/-- The view after a cycle that commits is the view before it with the D latch that the cycle makes finished too. -/
theorem arch_commit_tick (f' : FLatch) (d' : DLatch) (s : State) :
    (commit f' d' s.tick).arch = s.arch.finish s.cfg d' f'.pc :=
  arch_commit f' d' s

/-- Where no transfer is pending and the fetch succeeds, an instruction finishes its D latch over the view, the word that follows
it being at the next address in order. -/
theorem exec_of_fetches {s : State} {w : Word} (hv : s.d.branchValid = false) (hw : s.fetches w) (i : Instr) :
    ∃ t, exec i s = .next t ∧ t.arch = s.arch.finish s.cfg (decodedLatch i s) s.f.pcPlus4 ∧ CycleKept s t := by
  have hpc : fetchAddr s = s.f.pcPlus4 := if_neg (Bool.eq_false_iff.1 hv)
  refine ⟨_, exec_eq i s, ?_⟩
  rw [advance_of_fetches hw, hpc]
  exact ⟨arch_commit_tick .., commit_cycleKept ..⟩

/-! ## Instructions that write their result and fall through -/

/-- A view that differs in the register `rd` and the pc only is that of an instruction that writes `rd`. -/
theorem writesRegister_of_arch {s t : State} {rd : RegIdx} {v next : Word}
    (h : t.arch = { s.arch with x := writeFile s.arch.x rd v, pc := next }) (hk : CycleKept s t) :
    WritesRegister s t rd v next where
  result := by
    rw [h, Arch.reg]
    split
    · next h0 => rw [h0, readFile_zero]
    · next h0 => exact readFile_writeFile_self _ h0 v
  registers r hr := by
    rw [h]
    exact readFile_writeFile_ne _ hr v
  pc := by rw [h]
  memory a _ := by rw [h]
  faults := by rw [h]
  rest := hk

/-- The D latch makes no access and no transfer, and its result goes to `rd` unless that is `x0`. -/
structure DLatch.WritesResult (d : DLatch) : Prop where
  no_store : d.isStore = false
  no_load : d.isLoad = false
  no_transfer : d.branchValid = false
  enable : d.wbEnable = (d.rd != 0#5)

/-- The ALU instructions and LUI write their result (R166). -/
theorem decodedLatch_writesResult {i : Instr} (hc : i.cls ∈ [Class.aluReg, .aluImm, .lui]) (s : State) :
    (decodedLatch i s).WritesResult := by
  rw [decodedLatch_eq_classLatch]
  cases h : i.cls with
  | aluReg | aluImm | lui => exact ⟨rfl, rfl, rfl, rfl⟩
  | load | store | jal | jalr | branch => simp [h] at hc

theorem finish_writesResult {c : Config} {a : Arch} {d : DLatch} (hd : d.WritesResult) (next : Word) :
    a.finish c d next = { a with x := writeFile a.x d.rd (executeResult c d), pc := next } := by
  obtain ⟨hs, hl, hv, hw⟩ := hd
  have hx := writeBack_enable a.x (executeResult c d) d.rd true
  rw [Bool.true_and, ← hw, if_pos rfl] at hx
  rw [finish_pass hs hl, hx, hv]
  rfl

/-- An ALU instruction or LUI writes what Execute computes from its D latch, and changes nothing else but the pc. -/
theorem exec_writesRegister {s : State} {w : Word} (hv : s.d.branchValid = false) (hw : s.fetches w) {i : Instr}
    (hc : i.cls ∈ [Class.aluReg, .aluImm, .lui]) {v : Word} (h : executeResult s.cfg (decodedLatch i s) = v) :
    ∃ t, exec i s = .next t ∧ WritesRegister s t (decodedLatch i s).rd v s.f.pcPlus4 := by
  obtain ⟨t, ht, harch, hk⟩ := exec_of_fetches hv hw i
  rw [finish_writesResult (decodedLatch_writesResult hc s), h] at harch
  exact ⟨t, ht, writesRegister_of_arch harch hk⟩

/-! ## The ALU instructions (R203 to R221) -/

theorem decodedLatch_isAlu {i : Instr} (hc : i.cls ∈ [Class.aluReg, .aluImm]) (s : State) :
    (decodedLatch i s).isAlu = true := by
  rw [decodedLatch_eq_classLatch]
  cases h : i.cls with
  | aluReg | aluImm => rfl
  | load | store | lui | jal | jalr | branch => simp [h] at hc

/-- An ALU instruction writes what the ALU computes from its D latch. -/
theorem exec_alu_writesRegister {s : State} {w : Word} (hv : s.d.branchValid = false) (hw : s.fetches w) {i : Instr}
    (hc : i.cls ∈ [Class.aluReg, .aluImm]) {v : Word} (h : alu s.cfg (decodedLatch i s) = v) :
    ∃ t, exec i s = .next t ∧ WritesRegister s t (decodedLatch i s).rd v s.f.pcPlus4 :=
  exec_writesRegister hv hw (List.mem_append_left [Class.lui] hc) ((if_pos (decodedLatch_isAlu hc s)).trans h)

/-- The low 5 bits of a shift amount are its remainder by 32 (R205, R209, R210). -/
theorem low5_eq_mod (v : Word) : low5 v = v.toNat % 32 := by
  simp [low5]

/-- Settles O26: each instruction writes the ALU's value, which its lemma gives. -/
theorem aluRegResults : Obligations.AluRegResults := by
  intro s rd rs1 rs2 w hv hw a b
  have writes {i : Instr} {v : Word} (hc : i.cls = .aluReg) (h : alu s.cfg (decodedLatch i s) = v) :=
    exec_alu_writesRegister hv hw (by simp [hc]) h
  simp only [← low5_eq_mod, List.forall_mem_cons]
  exact ⟨writes rfl (alu_add ..), writes rfl (alu_sub ..), writes rfl (alu_sll ..), writes rfl (alu_slt ..),
    writes rfl (alu_sltu ..), writes rfl (alu_xor ..), writes rfl (alu_srl ..), writes rfl (alu_sra ..),
    writes rfl (alu_or ..), writes rfl (alu_and ..), List.forall_mem_nil _⟩

/-- Settles O27: each instruction writes the ALU's value, which its lemma gives. -/
theorem aluImmResults : Obligations.AluImmResults := by
  intro s rd rs1 imm shamt w hv hw a b
  have writes {i : Instr} {v : Word} (hc : i.cls = .aluImm) (h : alu s.cfg (decodedLatch i s) = v) :=
    exec_alu_writesRegister hv hw (by simp [hc]) h
  simp only [List.forall_mem_cons]
  exact ⟨writes rfl (alu_addi ..), writes rfl (alu_slti ..), writes rfl (alu_sltiu ..), writes rfl (alu_xori ..),
    writes rfl (alu_ori ..), writes rfl (alu_andi ..), writes rfl (alu_slli ..), writes rfl (alu_srli ..),
    writes rfl (alu_srai ..), List.forall_mem_nil _⟩

end Sys2Proof.Machine
end

section
/-! Proof of the statement about LUI: result and frame over the architectural view. -/

namespace Sys2Proof.Machine

/-- LUI's result is its U immediate, in place of an ALU value (R121, R172). -/
theorem executeResult_lui (c : Config) (rd : RegIdx) (imm20 : BitVec 20) (s : State) :
    executeResult c (decodedLatch (.lui rd imm20) s) = imm20 ++ 0#12 :=
  calc executeResult c (decodedLatch (.lui rd imm20) s)
    _ = upper20 imm20 := rfl
    _ = imm20 ++ 0#12 := BitVec.cast_eq _ _

/-- Settles O28: LUI is of a class that writes the result of Execute, here the U immediate. -/
theorem luiResult : Obligations.LuiResult := by
  intro s rd imm20 w hv hw
  have hc : (Instr.lui rd imm20).cls ∈ [Class.aluReg, .aluImm, .lui] := by simp [Instr.cls]
  exact exec_writesRegister hv hw hc (executeResult_lui s.cfg rd imm20 s)

end Sys2Proof.Machine
end

section
/-! Proofs of the statements about the control transfers: target, link and frame of the jumps and branches over the architectural
view. -/

namespace Sys2Proof.Machine

/-! ## Instructions that change the pc only -/

/-- A view that differs in the pc only is that of an instruction that writes nothing. -/
theorem writesNothing_of_arch {s t : State} {next : Word} (h : t.arch = { s.arch with pc := next }) (hk : CycleKept s t) :
    WritesNothing s t next where
  registers r _ := by
    rw [h]
    rfl
  pc := by rw [h]
  memory a _ := by rw [h]
  faults := by rw [h]
  rest := hk

/-! ## The jumps (R253 to R255) -/

/-- The D latch makes no access and a transfer, and its result, under `LINK_WRITE` only, is the address of the word after it and
goes to `rd` unless that is `x0`. -/
structure DLatch.Jumps (d : DLatch) (s : State) : Prop where
  no_store : d.isStore = false
  no_load : d.isLoad = false
  transfer : d.branchValid = true
  enable : d.wbEnable = (s.cfg.linkWrite && d.rd != 0#5)
  link : s.cfg.linkWrite = true → executeResult s.cfg d = s.f.pcPlus4

theorem decodedLatch_jumps {i : Instr} (hc : i.cls ∈ [Class.jal, .jalr]) (s : State) : (decodedLatch i s).Jumps s := by
  rw [decodedLatch_eq_classLatch]
  cases h : i.cls with
  | jal | jalr => exact ⟨rfl, rfl, rfl, rfl, fun hlink => if_pos hlink⟩
  | aluReg | aluImm | load | store | lui | branch => simp [h] at hc

theorem finish_jumps {s : State} {a : Arch} {d : DLatch} (hd : d.Jumps s) (next : Word) :
    a.finish s.cfg d next =
      { a with x := if s.cfg.linkWrite then writeFile a.x d.rd s.f.pcPlus4 else a.x, pc := d.branchTarget } := by
  obtain ⟨hs, hl, hv, hw, hres⟩ := hd
  rw [finish_pass hs hl, hw, writeBack_enable, hv]
  cases hlink : s.cfg.linkWrite with
  | false => rfl
  | true => rw [hres hlink]; rfl

/-- A jump goes to the target of its D latch, and links under `LINK_WRITE`. -/
theorem exec_jump {s : State} {w : Word} (hv : s.d.branchValid = false) (hw : s.fetches w) {i : Instr}
    (hc : i.cls ∈ [Class.jal, .jalr]) :
    ∃ t, exec i s = .next t ∧
      (s.cfg.linkWrite = true → WritesRegister s t (decodedLatch i s).rd s.f.pcPlus4 (decodedLatch i s).branchTarget) ∧
      (s.cfg.linkWrite = false → WritesNothing s t (decodedLatch i s).branchTarget) := by
  obtain ⟨t, ht, harch, hk⟩ := exec_of_fetches hv hw i
  rw [finish_jumps (decodedLatch_jumps hc s)] at harch
  refine ⟨t, ht, fun hlink => ?_, fun hlink => ?_⟩
  · rw [hlink] at harch
    exact writesRegister_of_arch harch hk
  · rw [hlink] at harch
    exact writesNothing_of_arch harch hk

/-- Settles O29: the D latch of each jump holds its `rd` and its target. -/
theorem jumpResults : Obligations.JumpResults := by
  intro s rd rs1 offset imm w hv hw
  have jumps (i : Instr) (hc : i.cls ∈ [Class.jal, .jalr]) := exec_jump hv hw hc
  simp only [List.forall_mem_cons]
  exact ⟨jumps (.jal rd offset) (by simp [Instr.cls]), jumps (.jalr rd rs1 imm) (by simp [Instr.cls]), List.forall_mem_nil _⟩

/-! ## The branches (R256 to R262) -/

/-- A branch's D latch adds its target to the view when the branch is taken, and the next address in order when not. -/
theorem finish_branchLatch (c : Config) (a : Arch) (r : RawFields) (imm : Word) (taken : Bool) (s : State) (next : Word) :
    a.finish c (branchLatch r imm taken s) next = { a with pc := if taken = true then s.f.pc + imm else next } := by
  rw [finish_pass rfl rfl]
  cases taken <;> rfl

/-- A branch changes the pc only, which its condition decides. -/
theorem exec_branch {s : State} {w : Word} (hv : s.d.branchValid = false) (hw : s.fetches w) {i : Instr} {r : RawFields}
    {offset : BitVec 13} {taken : Bool} (hd : decodedLatch i s = branchLatch r (sext13 offset) taken s) :
    ∃ t, exec i s = .next t ∧
      WritesNothing s t (if taken = true then s.f.pc + offset.signExtend 32 else s.f.pcPlus4) := by
  obtain ⟨t, ht, harch, hk⟩ := exec_of_fetches hv hw i
  rw [hd, finish_branchLatch] at harch
  exact ⟨t, ht, writesNothing_of_arch harch hk⟩

/-- Settles O30: each branch's D latch is a branch latch, taken when the comparison of R168 holds. -/
theorem branchResults : Obligations.BranchResults := by
  intro s rs1 rs2 offset w hv hw a b
  simp only [← condEq_eq, ← condNe_eq, ← condLt_eq, ← condGe_eq_le, ← condLtu_eq, ← condGeu_eq_le, List.forall_mem_cons]
  exact ⟨exec_branch hv hw rfl, exec_branch hv hw rfl, exec_branch hv hw rfl, exec_branch hv hw rfl,
    exec_branch hv hw rfl, exec_branch hv hw rfl, List.forall_mem_nil _⟩

end Sys2Proof.Machine
end

section
/-! Proofs of the statements about the loads and stores: result, fault and frame over the architectural view. -/

namespace Sys2Proof.Machine

/-! ## The widths that funct3 selects (R280), beside those of LBU and LHU -/

theorem widthOf_byte : widthOf 0b000#3 = .byte := by decide

theorem widthOf_half : widthOf 0b001#3 = .half := by decide

theorem widthOf_word : widthOf 0b010#3 = .word := by decide

/-! ## The view after an access -/

/-- The next address enters nothing of the view but the pc, and not even that after a transfer. -/
theorem finish_next {c : Config} {a : Arch} {d : DLatch} (hv : d.branchValid = false) (next next' : Word) :
    a.finish c d next = { a.finish c d next' with pc := next } := by
  simp [Arch.finish, hv]

/-- A view that differs in one more fault and the pc only is that of an instruction whose access fails. -/
theorem logsFault_of_arch {s t : State} {k : BusError} {access : Access} {addr : Word} {n : Width} {next : Word}
    (h : t.arch = { s.arch with
      pc := next, faults := s.arch.faults ++ [{ kind := k, access := access, addr := addr, width := n }] })
    (hk : CycleKept s t) : LogsFault s t k access addr n next where
  faults := by rw [h]
  registers r _ := by
    rw [h]
    rfl
  pc := by rw [h]
  memory a _ := by rw [h]
  rest := hk

/-- A view that differs in the bytes written and the pc only is that of an instruction that stores. -/
theorem writesMemory_of_arch {s t : State} (hm : Memory.wf s.mem) {addr : Word} {n : Width} {v next : Word}
    (h : t.arch = { s.arch with pc := next, mem := Memory.writeBytes s.arch.mem addr.toNat (lowBytes v n) })
    (hk : CycleKept s t) : WritesMemory s t addr n v next where
  stored k hlt := by
    rw [h, readByte_writeBytes_lowBytes (wf_drain hm), if_pos (by omega), Nat.add_sub_cancel_left]
  memory b hb := by rw [h, readByte_writeBytes_lowBytes (wf_drain hm), if_neg hb]
  registers r _ := by
    rw [h]
    rfl
  pc := by rw [h]
  faults := by rw [h]
  rest := hk

/-! ## The loads (R282, R286 to R290) -/

section Load

variable {s : State} {w : Word} {i : Instr} {rd rs1 : RegIdx} {imm : BitVec 12} {f3 : BitVec 3} {n : Width}

/-- An instruction with a load's D latch is the load's rule over the view, with the extension its funct3 selects. -/
theorem exec_load (hv : s.d.branchValid = false) (hw : s.fetches w)
    (hd : decodedLatch i s = loadLatch (rawI imm rs1 f3 rd) (sext12 imm) s) (hn : widthOf f3 = n) :
    ∃ t, exec i s = .next t ∧ CycleKept s t ∧ t.arch =
      { s.arch.load s.cfg rd (s.readReg rs1 + imm.signExtend 32) n (extendLoaded f3 n) with pc := s.f.pcPlus4 } := by
  obtain ⟨t, ht, harch, hk⟩ := exec_of_fetches hv hw i
  have hfall : (decodedLatch i s).branchValid = false := by rw [hd]; rfl
  rw [finish_next hfall _ (s.arch.pc + 4#32), hd, finish_load rfl rfl rfl rfl hn fun _ => rfl] at harch
  exact ⟨t, ht, hk, harch⟩

/-- A load whose read succeeds writes the extended value, and changes nothing else but the pc. -/
theorem exec_load_ok (hv : s.d.branchValid = false) (hw : s.fetches w)
    (hd : decodedLatch i s = loadLatch (rawI imm rs1 f3 rd) (sext12 imm) s) (hn : widthOf f3 = n) {v u : Word}
    (hext : extendLoaded f3 n v = u) (hread : busRead s.cfg s.arch.mem (s.readReg rs1 + imm.signExtend 32) n = .ok v) :
    ∃ t, exec i s = .next t ∧ WritesRegister s t rd u s.f.pcPlus4 := by
  obtain ⟨t, ht, hk, harch⟩ := exec_load hv hw hd hn
  simp only [Arch.load, hread, hext] at harch
  exact ⟨t, ht, writesRegister_of_arch harch hk⟩

/-- A load whose read fails logs the fault, and changes nothing else but the pc. -/
theorem exec_load_error (hv : s.d.branchValid = false) (hw : s.fetches w)
    (hd : decodedLatch i s = loadLatch (rawI imm rs1 f3 rd) (sext12 imm) s) (hn : widthOf f3 = n) {k : BusError}
    (hread : busRead s.cfg s.arch.mem (s.readReg rs1 + imm.signExtend 32) n = .error k) :
    ∃ t, exec i s = .next t ∧ LogsFault s t k .load (s.readReg rs1 + imm.signExtend 32) n s.f.pcPlus4 := by
  obtain ⟨t, ht, hk, harch⟩ := exec_load hv hw hd hn
  simp only [Arch.load, hread] at harch
  exact ⟨t, ht, logsFault_of_arch harch hk⟩

end Load

/-- Settles O31: each load's D latch is a load latch, whose funct3 selects the row's width and extension. -/
theorem loadResults : Obligations.LoadResults := by
  intro s rd rs1 imm w v hv hw addr
  have hbyte : v.extractLsb' 0 8 = v.setWidth 8 := (BitVec.setWidth_eq_extractLsb' (by omega)).symm
  have hhalf : v.extractLsb' 0 16 = v.setWidth 16 := (BitVec.setWidth_eq_extractLsb' (by omega)).symm
  simp only [hbyte, hhalf, List.forall_mem_cons]
  exact ⟨exec_load_ok hv hw rfl widthOf_byte (extendLoaded_lb v), exec_load_ok hv hw rfl widthOf_half (extendLoaded_lh v),
    exec_load_ok hv hw rfl widthOf_word (extendLoaded_lw v), exec_load_ok hv hw rfl widthOf_lbu (extendLoaded_lbu v),
    exec_load_ok hv hw rfl widthOf_lhu (extendLoaded_lhu v), List.forall_mem_nil _⟩

/-- Settles O32: each load's D latch is a load latch, whose funct3 selects the row's width. -/
theorem loadFaults : Obligations.LoadFaults := by
  intro s rd rs1 imm w k hv hw addr
  simp only [List.forall_mem_cons]
  exact ⟨exec_load_error hv hw rfl widthOf_byte, exec_load_error hv hw rfl widthOf_half, exec_load_error hv hw rfl widthOf_word,
    exec_load_error hv hw rfl widthOf_lbu, exec_load_error hv hw rfl widthOf_lhu, List.forall_mem_nil _⟩

/-! ## The stores (R283, R291 to R293) -/

section Store

variable {s : State} {w : Word} {i : Instr} {rs2 rs1 : RegIdx} {imm : BitVec 12} {f3 : BitVec 3} {n : Width}

/-- An instruction with a store's D latch is the store's rule over the view. -/
theorem exec_store (hv : s.d.branchValid = false) (hw : s.fetches w)
    (hd : decodedLatch i s = storeLatch (rawS imm rs2 rs1 f3) (sext12 imm) s) (hn : widthOf f3 = n) :
    ∃ t, exec i s = .next t ∧ CycleKept s t ∧ t.arch =
      { s.arch.store s.cfg (s.readReg rs1 + imm.signExtend 32) n (s.readReg rs2) with pc := s.f.pcPlus4 } := by
  subst hn
  obtain ⟨t, ht, harch, hk⟩ := exec_of_fetches hv hw i
  have hfall : (decodedLatch i s).branchValid = false := by rw [hd]; rfl
  rw [finish_next hfall _ (s.arch.pc + 4#32), hd, finish_store rfl rfl] at harch
  exact ⟨t, ht, hk, harch⟩

/-- A store to an aligned address in RAM writes its bytes, and changes nothing else but the pc. -/
theorem exec_store_ok (hv : s.d.branchValid = false) (hw : s.fetches w) (hm : Memory.wf s.mem)
    (hd : decodedLatch i s = storeLatch (rawS imm rs2 rs1 f3) (sext12 imm) s) (hn : widthOf f3 = n)
    (ha : (s.readReg rs1 + imm.signExtend 32).toNat % n.bytes = 0)
    (hram : deviceAt s.cfg (s.readReg rs1 + imm.signExtend 32) = .ram) :
    ∃ t, exec i s = .next t ∧
      WritesMemory s t (s.readReg rs1 + imm.signExtend 32) n (s.readReg rs2) s.f.pcPlus4 := by
  obtain ⟨t, ht, hk, harch⟩ := exec_store hv hw hd hn
  have hwrite := busWrite_ok_iff (v := s.readReg rs2).2 ⟨aligned_iff.2 ha, hram, rfl⟩
  simp only [Arch.store, hwrite] at harch
  exact ⟨t, ht, writesMemory_of_arch hm harch hk⟩

/-- A store whose write fails logs the fault, and changes nothing else but the pc. -/
theorem exec_store_error (hv : s.d.branchValid = false) (hw : s.fetches w)
    (hd : decodedLatch i s = storeLatch (rawS imm rs2 rs1 f3) (sext12 imm) s) (hn : widthOf f3 = n) {k : BusError}
    (hwrite : busWrite s.cfg (s.readReg rs1 + imm.signExtend 32) n (s.readReg rs2) = .error k) :
    ∃ t, exec i s = .next t ∧ LogsFault s t k .store (s.readReg rs1 + imm.signExtend 32) n s.f.pcPlus4 := by
  obtain ⟨t, ht, hk, harch⟩ := exec_store hv hw hd hn
  simp only [Arch.store, hwrite] at harch
  exact ⟨t, ht, logsFault_of_arch harch hk⟩

end Store

/-- Settles O33: each store's D latch is a store latch, whose funct3 selects the row's width. -/
theorem storeResults : Obligations.StoreResults := by
  intro s rs2 rs1 imm w hv hw hm addr
  simp only [List.forall_mem_cons]
  exact ⟨exec_store_ok hv hw hm rfl widthOf_byte, exec_store_ok hv hw hm rfl widthOf_half,
    exec_store_ok hv hw hm rfl widthOf_word, List.forall_mem_nil _⟩

/-- Settles O34: each store's D latch is a store latch, whose funct3 selects the row's width. -/
theorem storeFaults : Obligations.StoreFaults := by
  intro s rs2 rs1 imm w k hv hw addr
  simp only [List.forall_mem_cons]
  exact ⟨exec_store_error hv hw rfl widthOf_byte, exec_store_error hv hw rfl widthOf_half,
    exec_store_error hv hw rfl widthOf_word, List.forall_mem_nil _⟩

end Sys2Proof.Machine
end

section
/-! Proof of the statement about unrecognised words: such a word passes through Decode as a bubble. -/

namespace Sys2Proof.Machine

theorem stalls_of_reject {s : State} {why : Reject} (hd : decode s.f.instruction = .reject why) : stalls s = false := by
  simp [stalls, hazard, hd]

theorem decodeOutput_of_reject {s : State} {why : Reject} (hd : decode s.f.instruction = .reject why) :
    decodeOutput s = DLatch.bubble := by
  simp [decodeOutput, hd]

/-- Settles O20: the word never stalls and Decode makes a bubble of it, so the cycle commits a fetch in order, and the bubble adds
to the view the pc only. -/
theorem unrecognisedWordIsABubble : Obligations.UnrecognisedWordIsABubble := by
  intro s why w hr hv hd hw
  have hs := stalls_of_reject hd
  have hpc : fetchAddr s = s.f.pcPlus4 := if_neg (Bool.eq_false_iff.1 hv)
  have ht := step_of_advance hr hs
  rw [decodeOutput_of_reject hd, advance_of_fetches_step hw, fetched, hpc] at ht
  refine ⟨hs, _, ht, ?_, commit_d .., commit_f .., ?_⟩
  · simpa using (runs_iff.1 hr).1
  · rw [arch_commit_step, finish_bubble]

end Sys2Proof.Machine
end

section
/-! Proofs of the statements about hazards: the operands of a word that has none, and how long a word stalls. -/

namespace Sys2Proof.Machine

/-! ## Operands -/

/-- Settles O39: `operandsFinal_of_no_hazard`, for the word that the instruction encodes to is the one in the F latch. -/
theorem unstalledOperandsAreFinal : Obligations.UnstalledOperandsAreFinal := by
  intro s i hd hz
  obtain ⟨h1, h2⟩ := operandsFinal_of_no_hazard hd hz
  obtain ⟨-, he⟩ := encodeOfDecode _ i hd
  rw [he] at h1 h2
  exact ⟨fun hc => h1 ((readsRs1_iff _).2 hc), fun hc => h2 ((readsRs2_iff _).2 hc)⟩

/-! ## The length of a stall -/

@[simp] theorem drain_d (s : State) : s.drain.d = DLatch.bubble := by simp [State.drain, stallCycle]

@[simp] theorem drain_e (s : State) : s.drain.e = ELatch.bubble := by simp [State.drain, stallCycle]

@[simp] theorem drain_m (s : State) : s.drain.m = MLatch.bubble := by simp [State.drain, stallCycle]

/-- With the D, E and M latches drained, no register is still to be written. -/
theorem pendingWrite_drain (s : State) (r : RegIdx) : pendingWrite s.drain r = false := by
  obtain ⟨-, -, -, inert⟩ := bubblesAreInert
  exact (inert s.drain r (drain_d s) (drain_e s) (drain_m s)).1

/-- A word with every older instruction drained does not stall. -/
theorem stalls_drain (s : State) : stalls s.drain = false := by
  have hz : hazard s.drain.f.instruction s.drain = false :=
    Bool.eq_false_iff.2 fun h => by
      obtain ⟨i, -, ⟨-, hp⟩ | ⟨-, hp⟩⟩ := hazard_iff.1 h <;> simp [pendingWrite_drain] at hp
  simp [stalls, hz]

theorem dropFreeze_of_no_inputs {s : State} (hq : s.freezeIn = []) : s.dropFreeze = s := by
  have htail : s.freezeIn.tail = s.freezeIn := by rw [hq]; rfl
  rw [State.dropFreeze, htail]

/-- With no input of the host's left, a stalled step is the stalled cycle. -/
theorem step_of_stall_no_inputs {s : State} (hh : s.halted = false) (hq : s.freezeIn = []) (hs : stalls s = true) :
    step s = .next (stallCycle s) := by
  rw [step_of_stall (runs_iff.2 ⟨hh, by simp [nextFreeze, hq]⟩) hs, dropFreeze_of_no_inputs hq]

/-- Within `n` steps of a machine that runs with no input, the word in the F latch stops stalling, or all `n` are stalled cycles. -/
theorem stall_ends_or_stallCycles (n : Nat) {s : State} (hh : s.halted = false) (hq : s.freezeIn = []) :
    ∃ k t, k ≤ n ∧ runFor k s = .next t ∧ t.halted = false ∧ t.f = s.f ∧ (stalls t = false ∨ t = stallCycle^[n] s) := by
  induction n generalizing s with
  | zero => exact ⟨0, s, le_rfl, rfl, hh, rfl, .inr rfl⟩
  | succ n ih =>
    cases hs : stalls s with
    | false => exact ⟨0, s, Nat.zero_le _, rfl, hh, rfl, .inl hs⟩
    | true =>
      obtain ⟨k, t, hk, hrun, hht, hf, hend⟩ :=
        ih (s := stallCycle s) (by simpa [stallCycle] using hh) (by simpa [stallCycle] using hq)
      exact ⟨k + 1, t, Nat.succ_le_succ hk, (runFor_succ k (step_of_stall_no_inputs hh hq hs)).trans hrun, hht,
        hf.trans (commit_f ..), hend⟩

/-- Settles O40: three stalled cycles drain the D, E and M latches, and then no register is still to be written. -/
theorem stallLastsAtMostThreeCycles : Obligations.StallLastsAtMostThreeCycles := by
  intro s hh hq
  obtain ⟨k, t, hk, hrun, hht, hf, hend⟩ := stall_ends_or_stallCycles 3 hh hq
  refine ⟨k, t, hk, hrun, hht, hf, ?_⟩
  rcases hend with hend | rfl
  · exact hend
  · exact stalls_drain s

end Sys2Proof.Machine
end

section
/-! Proofs of the statements about the host's set-up operations: what each writes, when each is refused, and that each keeps the
invariant. -/

namespace Sys2Proof.Machine

/-! ## What each operation answers -/

theorem beforeFirstCycle_iff {s : State} : beforeFirstCycle s = true ↔ s.cycleCount = 0 := beq_iff_eq

theorem not_beforeFirstCycle_iff {s : State} : beforeFirstCycle s = false ↔ s.cycleCount ≠ 0 := beq_eq_false_iff_ne

section Answers

variable {s : State}

theorem romLoad_afterFirstCycle (h : s.cycleCount ≠ 0) (ws : List Word) : romLoad ws s = .refused .afterFirstCycle := by
  simp [romLoad, not_beforeFirstCycle_iff.2 h]

theorem romLoad_tooLong (h : s.cycleCount = 0) {ws : List Word} (hlen : s.cfg.romSize / 4 < ws.length) :
    romLoad ws s = .refused .romImageTooLong := by
  simp [romLoad, beforeFirstCycle_iff.2 h, hlen]

theorem romLoad_fits (h : s.cycleCount = 0) {ws : List Word} (hlen : ws.length ≤ s.cfg.romSize / 4) :
    romLoad ws s = .next { s with mem := Memory.writeBytes s.mem s.cfg.romBase.toNat (imageBytes ws) } := by
  simp [romLoad, beforeFirstCycle_iff.2 h, Nat.not_lt.2 hlen]

theorem setReg_afterFirstCycle (h : s.cycleCount ≠ 0) (i : RegIdx) (v : Word) :
    setReg i v s = .refused .afterFirstCycle := by
  simp [setReg, not_beforeFirstCycle_iff.2 h]

theorem setReg_beforeFirstCycle (h : s.cycleCount = 0) (i : RegIdx) (v : Word) :
    setReg i v s = .next { s with x := writeFile s.x i v } := by
  simp [setReg, beforeFirstCycle_iff.2 h]

theorem hostWrite_afterFirstCycle (h : s.cycleCount ≠ 0) (a : Word) (n : Width) (v : Word) :
    hostWrite a n v s = .refused .afterFirstCycle := by
  simp [hostWrite, not_beforeFirstCycle_iff.2 h]

theorem hostWrite_error (h : s.cycleCount = 0) {a : Word} {n : Width} {v : Word} {k : BusError}
    (hk : busWrite s.cfg a n v = .error k) : hostWrite a n v s = .fault (.hostBus k) := by
  simp [hostWrite, beforeFirstCycle_iff.2 h, hk]

theorem hostWrite_ok (h : s.cycleCount = 0) {a : Word} {n : Width} {v : Word} {w : StagedWrite}
    (hw : busWrite s.cfg a n v = .ok w) :
    hostWrite a n v s = .next { s with mem := Memory.writeBytes s.mem w.addr w.bytes } := by
  simp [hostWrite, beforeFirstCycle_iff.2 h, hw]

/-- `rom.load` answers a state only for an image that fits, and then the state with the image's bytes written (R352). -/
theorem romLoad_next {ws : List Word} {t : State} (ht : romLoad ws s = .next t) :
    ws.length ≤ s.cfg.romSize / 4 ∧
      t = { s with mem := Memory.writeBytes s.mem s.cfg.romBase.toNat (imageBytes ws) } := by
  by_cases h : s.cycleCount = 0
  · by_cases hlen : ws.length ≤ s.cfg.romSize / 4
    · exact ⟨hlen, (Host.Outcome.next.inj ((romLoad_fits h hlen).symm.trans ht)).symm⟩
    · simp [romLoad_tooLong h (Nat.lt_of_not_le hlen)] at ht
  · simp [romLoad_afterFirstCycle h] at ht

/-- `setReg` answers no other state than the one with the register written (R353). -/
theorem setReg_next {i : RegIdx} {v : Word} {t : State} (ht : setReg i v s = .next t) :
    t = { s with x := writeFile s.x i v } := by
  by_cases h : s.cycleCount = 0
  · exact (Host.Outcome.next.inj ((setReg_beforeFirstCycle h i v).symm.trans ht)).symm
  · simp [setReg_afterFirstCycle h] at ht

/-- The host's bus write answers a state only where the bus gives no error, and then the state with its bytes written (R354). -/
theorem hostWrite_next {a : Word} {n : Width} {v : Word} {t : State} (ht : hostWrite a n v s = .next t) :
    ∃ w, busWrite s.cfg a n v = .ok w ∧ t = { s with mem := Memory.writeBytes s.mem w.addr w.bytes } := by
  by_cases h : s.cycleCount = 0
  · rcases hb : busWrite s.cfg a n v with k | w
    · simp [hostWrite_error h hb] at ht
    · exact ⟨w, rfl, (Host.Outcome.next.inj ((hostWrite_ok h hb).symm.trans ht)).symm⟩
  · simp [hostWrite_afterFirstCycle h] at ht

end Answers

/-! ## The image of `rom.load` -/

@[simp] theorem length_imageBytes (ws : List Word) : (imageBytes ws).length = 4 * ws.length := by
  induction ws with
  | nil => rfl
  | cons w ws ih =>
    have hcons : imageBytes (w :: ws) = lowBytes w .word ++ imageBytes ws := rfl
    rw [hcons, List.length_append, length_lowBytes, ih, List.length_cons, Nat.mul_succ, Nat.add_comm, Width.bytes]

/-- An image is written word by word. -/
theorem writeBytes_imageBytes_cons (m : Memory) (a : Nat) (w : Word) (ws : List Word) :
    Memory.writeBytes m a (imageBytes (w :: ws)) =
      Memory.writeBytes (Memory.writeBytes m a (lowBytes w .word)) (a + 4) (imageBytes ws) := rfl

/-- A read below the bytes written does not see them. -/
theorem readLE_writeBytes_of_le {m : Memory} (hm : Memory.wf m) {a b : Nat} {p : Width} (h : b + p.bytes ≤ a)
    (bs : List Byte) : Memory.readLE (Memory.writeBytes m a bs) b p = Memory.readLE m b p := by
  apply BitVec.eq_of_getLsbD_eq
  intro i _
  rw [getLsbD_readLE, getLsbD_readLE]
  by_cases hi : i < 8 * p.bytes
  · rw [readByte_writeBytes hm, if_neg (by omega)]
  · simp [hi]

/-- Word `i` of an image written at `a` stands at `a + 4 * i`. -/
theorem readLE_writeBytes_imageBytes {m : Memory} (hm : Memory.wf m) (a : Nat) (ws : List Word) (i : Nat)
    (h : i < ws.length) : Memory.readLE (Memory.writeBytes m a (imageBytes ws)) (a + 4 * i) .word = ws[i] := by
  induction ws generalizing m a i with
  | nil => exact absurd h (Nat.not_lt_zero i)
  | cons w ws ih =>
    have hw := wf_writeBytes hm a (lowBytes w .word)
    rw [writeBytes_imageBytes_cons]
    cases i with
    | zero =>
      have hself := readLE_writeBytes hm a .word .word w (k := 0) le_rfl
      exact (readLE_writeBytes_of_le hw (p := .word) le_rfl _).trans (by simpa [Width.bytes] using hself)
    | succ i =>
      rw [Nat.mul_succ, Nat.add_comm (4 * i), ← Nat.add_assoc]
      exact ih hw (a + 4) i (Nat.lt_of_succ_lt_succ h)

/-- An image that fits lists bytes of ROM only, for no byte of the region lies past the last address (R73). -/
theorem MemoryLegal.writeImage {c : Config} {m : Memory} (hm : MemoryLegal c m) (hc : configOk c = true) {ws : List Word}
    (hlen : ws.length ≤ c.romSize / 4) : MemoryLegal c (Memory.writeBytes m c.romBase.toNat (imageBytes ws)) where
  canonical := wf_writeBytes hm.canonical _ _
  mapped cell hcell := by
    rcases mem_writeBytes hcell with hcell | ⟨k, hk, hk'⟩
    · exact hm.mapped cell hcell
    · obtain ⟨-, -, -, htop⟩ := regionOk_iff.1 ((configOk_iff.1 hc).1 (romRegion c) List.mem_cons_self)
      rw [length_imageBytes] at hk
      have hin : k < c.romSize := by omega
      simp only [romRegion] at htop
      have haddr : (BitVec.ofNat 32 cell.1).toNat = cell.1 := Nat.mod_eq_of_lt (by omega)
      have hrom : deviceAt c (BitVec.ofNat 32 cell.1) = .rom := by
        rw [deviceAt_rom_iff, inRegion_iff, haddr]
        simp only [romRegion]
        omega
      exact ⟨BitVec.ofNat 32 cell.1, haddr, by simp [hrom]⟩

/-! ## The statements -/

/-- Settles O46: the image's words are those read back, and its bytes are as many as its words have. -/
theorem romLoadWritesTheImage : Obligations.RomLoadWritesTheImage := by
  intro s ws _ hm
  refine ⟨fun h => romLoad_afterFirstCycle h ws, fun h hlen => romLoad_tooLong h hlen,
    fun h hlen => ⟨_, romLoad_fits h hlen, readLE_writeBytes_imageBytes hm _ ws, fun a ha => ?_⟩⟩
  rw [readByte_writeBytes hm, length_imageBytes, if_neg ha]

/-- Settles O47 with the laws of the register file, by whether the register written is `x0` (R36, R38). -/
theorem hostRegisterWrite : Obligations.HostRegisterWrite := by
  intro s i v
  refine ⟨fun h => setReg_afterFirstCycle h i v, fun h => ⟨_, setReg_beforeFirstCycle h i v, fun r => ?_⟩⟩
  obtain ⟨-, hfile⟩ := registerZeroAndRegisterFile
  obtain ⟨hzero, hread⟩ := hfile s.x i r v
  by_cases hi : i = 0#5
  · rw [if_neg fun hr => hr.2 hi, hi, hzero]
    rfl
  · simpa [hi, State.readReg] using hread hi

/-- Settles O48: the bytes that the bus stages are those of the value, written at once. -/
theorem hostBusWrite : Obligations.HostBusWrite := by
  intro s a n v
  refine ⟨fun h => hostWrite_afterFirstCycle h a n v, fun h k hk => hostWrite_error h hk, fun h hm w hw => ?_⟩
  refine ⟨_, hostWrite_ok h hw, ?_⟩
  obtain ⟨-, -, rfl⟩ := busWrite_ok_iff.1 hw
  exact readByte_writeBytes_lowBytes hm a.toNat n v

/-! ## The invariant -/

/-- The invariant says of memory only that it is legal. -/
theorem State.Inv.withMem {s : State} (h : s.Inv) {m : Memory} (hm : MemoryLegal s.cfg m) : State.Inv { s with mem := m } where
  config := h.config
  latchF := h.latchF
  latchD := h.latchD
  latchE := h.latchE
  latchM := h.latchM
  memory := hm
  log := h.log
  halt := ⟨h.halt.together, h.halt.real⟩

/-- The invariant says nothing of the registers. -/
theorem State.Inv.withRegisters {s : State} (h : s.Inv) (x : Vector Word 31) : State.Inv { s with x := x } where
  config := h.config
  latchF := h.latchF
  latchD := h.latchD
  latchE := h.latchE
  latchM := h.latchM
  memory := h.memory
  log := h.log
  halt := ⟨h.halt.together, h.halt.real⟩

/-- Settles O43: `rom.load` lists bytes of ROM, a bus write bytes of RAM, and `setReg` moves registers only. -/
theorem hostSetupKeepsTheInvariant : Obligations.HostSetupKeepsTheInvariant := by
  intro s t h
  refine ⟨fun ws ht => ?_, fun i v ht => ?_, fun a n v ht => ?_⟩
  · obtain ⟨hlen, rfl⟩ := romLoad_next ht
    exact h.withMem (h.memory.writeImage h.config hlen)
  · obtain rfl := setReg_next ht
    exact h.withRegisters _
  · obtain ⟨w, hw, rfl⟩ := hostWrite_next ht
    obtain ⟨ha, hram, rfl⟩ := busWrite_ok_iff.1 hw
    exact h.withMem (h.memory.writeBytes h.config ha (by simp [hram]) v)

end Sys2Proof.Machine
end
